-- ==== Sys2Proof/Word.lean ====
section
/-! DEFINITION. The two word types of the core (spec/00_scope.md R3: XLEN 8, ALEN 16). -/

namespace Sys2Proof

/-- An 8-bit value: a register, a flag byte, a byte on the bus. -/
abbrev Byte := BitVec 8

/-- A 16-bit address, and the width of `PC` (10_state.md R12). Sums wrap modulo 65536. -/
abbrev Addr := BitVec 16

end Sys2Proof
end

