-- ==== Sys2Proof/Config.lean ====
section
/-! DEFINITION. The constants of this hardware and the parameters that may differ between two
copies of the core (spec/00_scope.md R3). The one free value is what an endless input delivers
(20_memory.md R34); nothing in the core itself yields an unpredictable value
(93_implementation_defined.md, end of Part 1). -/

namespace Sys2Proof

namespace Config

/-- `RAM_SIZE`: RAM answers at `[0x0000, 0x2000)` (00_scope.md R3). -/
def ramSize : Nat := 0x2000

/-- `IO_ADDR`: the console register (00_scope.md R3). -/
def ioAddr : Addr := 0x2000#16

/-- `ROM_SIZE`: program storage has exactly 0x8000 bytes (20_memory.md R47). -/
def romSize : Nat := 0x8000

/-- `STACK_PAGE` (00_scope.md R3). -/
def stackPage : Addr := 0x0100#16

/-- `RESET_VECTOR` (00_scope.md R3). -/
def resetVector : Addr := 0xFFFC#16

/-- `BREAK_VECTOR` (00_scope.md R3). -/
def breakVector : Addr := 0xFFFE#16

/-- The opcode of NOP, which halts the core while `HALT_ON_NOP` holds (40_step_and_addressing.md R61). -/
def haltOpcode : Byte := 0xEA#8

/-- Byte `pos` of the endless byte sequence numbered `stream`. It has no value in the model: "The value of
each input byte is free" (20_memory.md R34; log entry 16). -/
opaque endlessByte (stream pos : Nat) : Byte

end Config

/-- A place in an endless byte sequence, from which on it delivers `Config.endlessByte stream pos`,
`Config.endlessByte stream (pos + 1)` and so on. -/
structure Endless where
  stream : Nat
  pos : Nat
deriving DecidableEq, Repr

/-- A finite or infinite sequence of bytes (00_scope.md R3) as plain data: the bytes `given`, and after
them nothing, or an endless rest (log entry 16). -/
structure InputSeq where
  given : List Byte
  endless : Option Endless
deriving DecidableEq, Repr

/-- The sequence with no byte. -/
def InputSeq.empty : InputSeq := { given := [], endless := none }

/-- The finite sequence of these bytes. -/
def InputSeq.ofList (bytes : List Byte) : InputSeq := { given := bytes, endless := none }

/-- The three arguments a model of the core takes (00_scope.md R3): the program image `ROM`, the
console's `INPUT` and the halt policy `HALT_ON_NOP`. They are plain data kept in the state, so that
a statement over states is a statement over every choice of them; no step writes them.
DESIGN CHOICE (log entry 1). -/
structure Params where
  /-- `ROM`, byte `i` of the image under the key `i`; bytes not listed are `0x00` (20_memory.md R47). -/
  rom : List Host.Cell
  /-- `INPUT`: every byte the console will ever deliver, finitely or infinitely many (00_scope.md R3,
  20_memory.md R34). -/
  input : InputSeq
  /-- `HALT_ON_NOP` (40_step_and_addressing.md R61). -/
  haltOnNop : Bool
deriving DecidableEq, Repr

/-- No image, no input, and the spec's default halt policy `true` (00_scope.md R3).
The empty image and the empty input are DESIGN CHOICE (log entries 2 and 3). -/
def Params.default : Params := { rom := [], input := .empty, haltOnNop := true }

end Sys2Proof
end

