-- ==== Sys2Proof/Machine/Console.lean ====
section
/-! DEFINITION. Taking bytes from the console's input sequence (spec/10_state.md R20,
20_memory.md R34, R42). -/

namespace Sys2Proof.Machine

/-- The first byte of the sequence and what is left; none of an empty one. After the given bytes an
endless sequence goes on with its free bytes, one position at a time (20_memory.md R34; log entry 16). -/
def nextInput (i : InputSeq) : Option (Byte × InputSeq) :=
  match i.given, i.endless with
  | b :: rest, e => some (b, { given := rest, endless := e })
  | [], some e => some (Config.endlessByte e.stream e.pos, { given := [], endless := some { e with pos := e.pos + 1 } })
  | [], none => none

/-- What is left after `n` bytes are taken; none where there are fewer (20_memory.md R42). -/
def inputAfter : Nat → InputSeq → Option InputSeq
  | 0, i => some i
  | n + 1, i =>
    match nextInput i with
    | none => none
    | some (_, rest) => inputAfter n rest

/-- `rest` is what is left of `i` after some number of bytes. -/
abbrev inputTail (rest i : InputSeq) : Prop := ∃ n, inputAfter n i = some rest

/-- `b` put in front of the sequence. -/
def prependInput (b : Byte) (i : InputSeq) : InputSeq := { i with given := b :: i.given }

end Sys2Proof.Machine
end

