-- ==== Sys2Proof/Machine/Flags.lean ====
section
/-! DEFINITION. The status register's primitives and the ALU (spec/10_state.md R13 to R16,
42_arithmetic.md R110 to R112, 43_logic_shift.md R134 to R137). Pure functions on bytes. -/

namespace Sys2Proof.Machine

/-- The eight bits of `P` by name (10_state.md R13). -/
inductive Flag where
  | c | z | i | d | b | u | v | n
deriving DecidableEq, Repr

/-- The bit number of a flag (10_state.md R13). -/
def Flag.bit : Flag → Nat
  | .c => 0
  | .z => 1
  | .i => 2
  | .d => 3
  | .b => 4
  | .u => 5
  | .v => 6
  | .n => 7

/-- `GetFlag(bit)` (10_state.md R15). -/
def getFlag (f : Flag) (p : Byte) : Bool := p.getLsbD f.bit

/-- `SetFlag(bit, e)`: one bit of `P` written, the other seven kept (10_state.md R15). -/
def setFlag (f : Flag) (e : Bool) (p : Byte) : Byte :=
  if e then p ||| (1#8 <<< f.bit) else p &&& ~~~(1#8 <<< f.bit)

/-- `SetZN(v)`: Z from `v = 0`, N from bit 7 of `v` (10_state.md R16). -/
def setZN (v p : Byte) : Byte := setFlag .n (v.getLsbD 7) (setFlag .z (v == 0#8) p)

/-- The copy of `P` that PHP and BRK push: bits 4 and 5 forced to 1 (10_state.md R14). -/
def pushedStatus (p : Byte) : Byte := p ||| 0x30#8

/-- What PLP and RTI write to `P` for the pulled byte: bit 5 set, bit 4 cleared (10_state.md R14). -/
def pulledStatus (v : Byte) : Byte := (v ||| 0x20#8) &&& 0xEF#8

/-- The three outputs of the adder (42_arithmetic.md R110, R111). -/
structure AluOut where
  result : Byte
  carry : Bool
  ovf : Bool
deriving DecidableEq, Repr

/-- `Add8(a, b, c)` (42_arithmetic.md R110): the sum is computed unreduced. -/
def add8 (a b : Byte) (c : Bool) : AluOut :=
  let sum := a.toNat + b.toNat + c.toNat
  let result := BitVec.ofNat 8 sum
  { result := result
    carry := decide (255 < sum)
    ovf := ((a ^^^ b) &&& 0x80#8) == 0#8 && ((a ^^^ result) &&& 0x80#8) != 0#8 }

/-- `Sub8(a, b, c)` (42_arithmetic.md R111): the difference is computed in the integers; carry means no borrow. -/
def sub8 (a b : Byte) (c : Bool) : AluOut :=
  let diff : Int := (a.toNat : Int) - (b.toNat : Int) - (1 - (c.toNat : Int))
  let result := BitVec.ofInt 8 diff
  { result := result
    carry := decide (0 ≤ diff)
    ovf := ((a ^^^ b) &&& 0x80#8) != 0#8 && ((a ^^^ result) &&& 0x80#8) != 0#8 }

/-- `Cmp8(r, m)`: the new `P` (42_arithmetic.md R112). -/
def cmp8 (r m p : Byte) : Byte :=
  setFlag .n ((r - m).getLsbD 7) (setFlag .z (r == m) (setFlag .c (decide (m.toNat ≤ r.toNat)) p))

/-- BIT's flags: Z from `A & m`, N and V from bits 7 and 6 of `m` (43_logic_shift.md R133). -/
def bitFlags (a m p : Byte) : Byte :=
  setFlag .v (m.getLsbD 6) (setFlag .n (m.getLsbD 7) (setFlag .z ((a &&& m) == 0#8) p))

/-- The result and the bit shifted out (43_logic_shift.md section 2). -/
structure ShiftOut where
  result : Byte
  cout : Bool
deriving DecidableEq, Repr

/-- ASL (43_logic_shift.md R134); the old carry is not used. -/
def shiftLeft (v : Byte) (_c : Bool) : ShiftOut := { result := v <<< 1, cout := v.getLsbD 7 }

/-- LSR (43_logic_shift.md R135); the old carry is not used. -/
def shiftRight (v : Byte) (_c : Bool) : ShiftOut := { result := v >>> 1, cout := v.getLsbD 0 }

/-- ROL (43_logic_shift.md R136): the old carry enters at bit 0. -/
def rotateLeft (v : Byte) (c : Bool) : ShiftOut :=
  { result := (v <<< 1) ||| (if c then 0x01#8 else 0#8), cout := v.getLsbD 7 }

/-- ROR (43_logic_shift.md R137): the old carry enters at bit 7. -/
def rotateRight (v : Byte) (c : Bool) : ShiftOut :=
  { result := (v >>> 1) ||| (if c then 0x80#8 else 0#8), cout := v.getLsbD 0 }

end Sys2Proof.Machine
end

