-- ==== Sys2Proof/Machine/Bits.lean ====
section
/-! DEFINITION. Extension and byte-order helpers (spec/00_scope.md section 6, 20_memory.md R37). -/

namespace Sys2Proof.Machine

/-- `zext_16(v)`: the byte with high byte 0 (00_scope.md section 6). -/
def zext16 (v : Byte) : Addr := v.setWidth 16

/-- `sext_16(v)`: `v` if `v < 0x80`, else `v + 0xFF00` (00_scope.md section 6, 30_encoding.md R51). -/
def sext16 (v : Byte) : Addr := if v.toNat < 0x80 then zext16 v else zext16 v + 0xFF00#16

/-- `{hi, lo}`: the high byte first (00_scope.md section 6). -/
def word16 (hi lo : Byte) : Addr := hi ++ lo

/-- `w[15:8]`. -/
def hiByte (w : Addr) : Byte := w.extractLsb' 8 8

/-- `w[7:0]`. -/
def loByte (w : Addr) : Byte := w.extractLsb' 0 8

end Sys2Proof.Machine
end

