-- ==== Sys2Proof/Machine/Memory.lean ====
section
/-! DEFINITION. Memory as a sparse list in one canonical form, the address map, and the loading of a
program image (spec/20_memory.md R31, R47). No state is mentioned here. -/

namespace Sys2Proof.Machine

/-- Bytes by key, keys strictly rising, no entry equal to `Memory.unlisted`. -/
abbrev Memory := List Host.Cell

/-- What a key that is not listed reads as: RAM is cleared by reset (10_state.md R23) and a short
image is padded with zeros (20_memory.md R47). -/
def Memory.unlisted : Byte := 0x00#8

/-- The byte under key `k`. -/
def Memory.read : Memory → Nat → Byte
  | [], _ => Memory.unlisted
  | (j, w) :: m, k => if j = k then w else Memory.read m k

/-- `v` written under key `k`; the canonical form is kept. -/
def Memory.write : Memory → Nat → Byte → Memory
  | [], k, v => if v = Memory.unlisted then [] else [(k, v)]
  | (j, w) :: m, k, v =>
    if k < j then (if v = Memory.unlisted then (j, w) :: m else (k, v) :: (j, w) :: m)
    else if k = j then (if v = Memory.unlisted then m else (k, v) :: m)
    else (j, w) :: Memory.write m k v

/-- The canonical form from key `lo` on: keys rise strictly, stay below `size`, and no byte listed
is the unlisted one. -/
def Memory.wfFrom (size : Nat) : Nat → Memory → Bool
  | _, [] => true
  | lo, (k, v) :: m => decide (lo ≤ k) && decide (k < size) && decide (v ≠ Memory.unlisted) && Memory.wfFrom size (k + 1) m

/-- The canonical form of a memory of `size` bytes. -/
def Memory.wf (size : Nat) (m : Memory) : Bool := Memory.wfFrom size 0 m

/-- `bytes` listed from key `k` on, in canonical form. -/
def Memory.ofBytes : Nat → List Byte → Memory
  | _, [] => []
  | k, v :: vs => if v = Memory.unlisted then Memory.ofBytes (k + 1) vs else (k, v) :: Memory.ofBytes (k + 1) vs

/-- The image loader's contract: byte `i` of the image is `ROM[i]`, a short image is padded with
`0x00`, and an image longer than `ROM_SIZE` is refused (20_memory.md R47). -/
def loadImage (bytes : List Byte) : Option Memory :=
  if bytes.length ≤ Config.romSize then some (Memory.ofBytes 0 bytes) else none

/-- The three regions of the address space (20_memory.md R31). -/
inductive Region where
  | ram
  | io
  | rom
deriving DecidableEq, Repr

/-- The region of an address is decided by the address alone (20_memory.md R31). -/
def regionOf (a : Addr) : Region :=
  if a.toNat < Config.ramSize then .ram else if a = Config.ioAddr then .io else .rom

/-- Program storage is indexed by `a mod 0x8000` (20_memory.md R31; 90_conflicts.md C2). -/
def romIndex (a : Addr) : Nat := a.toNat % Config.romSize

end Sys2Proof.Machine
end

