-- ==== Sys2Proof/Machine/State.lean ====
section
/-! DEFINITION. The state of the core as plain data, its reset, and the reasons a step can have no
next state (spec/10_state.md, 70_reset_and_hazards.md R200). -/

namespace Sys2Proof.Machine

/-- The run state `RS` (10_state.md R17). -/
inductive RunState where
  | running
  | halted
  | faulted
deriving DecidableEq, Repr

/-- Everything the spec gives the machine (10_state.md R10 to R21). -/
structure State where
  /-- `PC` (10_state.md R12). -/
  pc : Addr
  /-- The accumulator `A` (10_state.md R10). -/
  a : Byte
  /-- The index register `X` (10_state.md R10). -/
  x : Byte
  /-- The index register `Y` (10_state.md R10). -/
  y : Byte
  /-- The stack pointer `S` (10_state.md R11). -/
  s : Byte
  /-- The status register `P`, all eight bits stored (10_state.md R13, R14; log entry 8). -/
  p : Byte
  /-- The run state `RS` (10_state.md R17). -/
  run : RunState
  /-- `RAM`, key = address (10_state.md R18). -/
  ram : List Host.Cell
  /-- `IN`, the console bytes not yet delivered, finitely or infinitely many (10_state.md R20). -/
  input : InputSeq
  /-- `OUT`, the console bytes written so far (10_state.md R20). -/
  output : List Byte
  /-- The parameters `ROM`, `INPUT`, `HALT_ON_NOP` (00_scope.md R3; 10_state.md R19). -/
  par : Params
deriving DecidableEq, Repr

/-- Why a step has no next state. -/
inductive Fault where
  /-- Raised by `step` when the opcode byte fetched is one of the 105 undefined values: the run state
  becomes `Faulted` and nothing else changes (40_step_and_addressing.md R62). It carries what the spec
  says the model keeps in the fault outcome, the opcode and its address, and the state the step
  leaves, `run = faulted` in it. SAFE: the model stops where the spec says the core stops
  (log entry 5). -/
  | undefinedOpcode (opc : Byte) (address : Addr) (left : State)
  /-- Raised by any step that reads `0x2000` more often than there are bytes in `IN`: the step never
  completes and the core is stuck in it, neither halted nor faulted (20_memory.md R34;
  93_implementation_defined.md U6). The state is the one before the step. SAFE: no next state is
  claimed (log entry 4). -/
  | consoleWait
deriving DecidableEq, Repr

/-- Why an instruction has no meaning in the model. -/
inductive Refusal where
  /-- Raised by an arm of `exec` that has no meaning yet; no arm does. SAFE. -/
  | notModelled (mnemonic : String)
deriving DecidableEq, Repr

namespace State

/-- `A <- v`. -/
def setA (v : Byte) (s : State) : State := { s with a := v }
/-- `X <- v`. -/
def setX (v : Byte) (s : State) : State := { s with x := v }
/-- `Y <- v`. -/
def setY (v : Byte) (s : State) : State := { s with y := v }
/-- `S <- v`. -/
def setS (v : Byte) (s : State) : State := { s with s := v }
/-- `P <- v`. -/
def setP (v : Byte) (s : State) : State := { s with p := v }
/-- `PC <- w`. -/
def setPc (w : Addr) (s : State) : State := { s with pc := w }
/-- `RS <- r`. -/
def setRun (r : RunState) (s : State) : State := { s with run := r }
/-- RAM replaced. -/
def setRam (m : List Host.Cell) (s : State) : State := { s with ram := m }
/-- `IN` replaced. -/
def setInput (i : InputSeq) (s : State) : State := { s with input := i }
/-- `OUT` replaced. -/
def setOutput (bs : List Byte) (s : State) : State := { s with output := bs }

/-- `Reset()` for the given parameters (70_reset_and_hazards.md R200): registers zero, RAM cleared,
`IN` the whole `INPUT`, `OUT` empty, running, `PC` the little-endian word at `0xFFFC`, which lies in
program storage. -/
def ofParams (par : Params) : State :=
  { pc := word16 (Memory.read par.rom (romIndex (Config.resetVector + 1))) (Memory.read par.rom (romIndex Config.resetVector))
    a := 0, x := 0, y := 0, s := 0, p := 0
    run := .running
    ram := []
    input := par.input
    output := []
    par := par }

/-- The machine right after reset with no program image and no input given (log entries 2, 3). -/
def reset : State := ofParams Params.default

/-- The `reset` input applied between two steps, in any run state: the same sequence, RAM clearing
and the rewinding of `IN` included (70_reset_and_hazards.md R201; log entry 7). -/
def warmReset (s : State) : State := ofParams s.par

end State

end Sys2Proof.Machine
end

