-- ==== Sys2Proof/Machine/Ops.lean ====
section
/-! DEFINITION. The named operations over registers, bus and stack, and taking and leaving the one
trap (spec/20_memory.md R32 to R36, 40_step_and_addressing.md R78 to R81, 60_exceptions.md R183).
An access answers `none` exactly when it reads the console and no input is left
(20_memory.md R34; log entry 4). -/

namespace Sys2Proof.Machine

/-- What a step or a meaning answers. -/
abbrev Result := Host.Outcome State Fault Refusal

/-- A completed instruction is the next state; an access without input leaves the step stuck
(20_memory.md R34). -/
def finish : Option State → Result
  | some t => .next t
  | none => .fault .consoleWait

/-! ## Registers -/

/-- The resolver's advance of `PC`, modulo 65536 (10_state.md R12). -/
def advance (n : Nat) (s : State) : State := s.setPc (s.pc + BitVec.ofNat 16 n)

/-- `P.f <- e` (10_state.md R15). -/
def writeFlag (f : Flag) (e : Bool) (s : State) : State := s.setP (setFlag f e s.p)

/-- `SetZN(v)` on the register `P` (10_state.md R16). -/
def updateZN (v : Byte) (s : State) : State := s.setP (setZN v s.p)

/-- The output `halted` (00_scope.md R4, 10_state.md R17). -/
def haltedPin (s : State) : Bool := s.run == .halted

/-- The output `faulted` (00_scope.md R4, 10_state.md R17). -/
def faultedPin (s : State) : Bool := s.run == .faulted

/-! ## The bus -/

/-- The byte an address holds, without any side effect; the console register holds none. -/
def peek (s : State) (a : Addr) : Option Byte :=
  match regionOf a with
  | .ram => some (Memory.read s.ram a.toNat)
  | .io => none
  | .rom => some (Memory.read s.par.rom (romIndex a))

/-- `IoRead()`: the next input byte (20_memory.md R34). -/
def ioRead (s : State) : Option (Byte × State) :=
  match nextInput s.input with
  | none => none
  | some (b, rest) => some (b, s.setInput rest)

/-- `IoWrite(v)`: `OUT` followed by `v` (20_memory.md R34). -/
def ioWrite (v : Byte) (s : State) : State := s.setOutput (s.output ++ [v])

/-- `MemRead(a, 1)` (20_memory.md R32). -/
def busRead (a : Addr) (s : State) : Option (Byte × State) :=
  match regionOf a with
  | .ram => some (Memory.read s.ram a.toNat, s)
  | .io => ioRead s
  | .rom => some (Memory.read s.par.rom (romIndex a), s)

/-- `MemWrite(a, 1, v)` (20_memory.md R33): a write to program storage is discarded. -/
def busWrite (a : Addr) (v : Byte) (s : State) : State :=
  match regionOf a with
  | .ram => s.setRam (Memory.write s.ram a.toNat v)
  | .io => ioWrite v s
  | .rom => s

/-- Two byte reads, the low byte first (20_memory.md R35, R36). -/
def readPair (lo hi : Addr) (s : State) : Option (Addr × State) :=
  match busRead lo s with
  | none => none
  | some (l, s1) =>
    match busRead hi s1 with
    | none => none
    | some (h, s2) => some (word16 h l, s2)

/-- `Read16(a)`: the high byte at `a + 1`, modulo 65536 (20_memory.md R35). -/
def read16 (a : Addr) (s : State) : Option (Addr × State) := readPair a (a + 1) s

/-- Where `Read16Bug` finds the high byte: inside the page of `a` (20_memory.md R36). -/
def bugHighAddr (a : Addr) : Addr := (a &&& 0xFF00#16) ||| ((a + 1) &&& 0x00FF#16)

/-- `Read16Bug(a)` (20_memory.md R36). -/
def read16Bug (a : Addr) (s : State) : Option (Addr × State) := readPair a (bugHighAddr a) s

/-! ## The stack unit -/

/-- The stack address `0x0100 | zext_16(S)` (10_state.md R11). -/
def stackAddr (sp : Byte) : Addr := Config.stackPage ||| zext16 sp

/-- `Push8(v)`: write at the stack address, then `S + 1` (40_step_and_addressing.md R78). -/
def push8 (v : Byte) (s : State) : State :=
  let t := busWrite (stackAddr s.s) v s
  t.setS (t.s + 1)

/-- `Pull8()`: `S - 1`, then read at the stack address (40_step_and_addressing.md R79). -/
def pull8 (s : State) : Option (Byte × State) :=
  let t := s.setS (s.s - 1)
  busRead (stackAddr t.s) t

/-- `Push16(w)`: the high byte, then the low byte (40_step_and_addressing.md R80). -/
def push16 (w : Addr) (s : State) : State := push8 (loByte w) (push8 (hiByte w) s)

/-- `Pull16()`: the low byte, then the high byte (40_step_and_addressing.md R81). -/
def pull16 (s : State) : Option (Addr × State) :=
  match pull8 s with
  | none => none
  | some (lo, s1) =>
    match pull8 s1 with
    | none => none
    | some (hi, s2) => some (word16 hi lo, s2)

/-! ## The trap and the return from it -/

/-- Trap entry (60_exceptions.md R183, 45_stack_flags_system.md R171): `PC` pushed high byte first,
then `P` with bits 4 and 5 set, then I set, then `PC` loaded from the break vector. `PC` on entry is
the address of the byte after the BRK. -/
def takeBreak (s : State) : Option State :=
  let s1 := push16 s.pc s
  let s2 := push8 (pushedStatus s1.p) s1
  let s3 := writeFlag .i true s2
  match read16 Config.breakVector s3 with
  | none => none
  | some (w, s4) => some (s4.setPc w)

/-- Trap return (60_exceptions.md R184, 45_stack_flags_system.md R172): `P` pulled with bit 5 set and
bit 4 cleared, then `PC` pulled with no increment. -/
def returnFromBreak (s : State) : Option State :=
  match pull8 s with
  | none => none
  | some (v, s1) =>
    match pull16 (s1.setP (pulledStatus v)) with
    | none => none
    | some (w, s2) => some (s2.setPc w)

end Sys2Proof.Machine
end

