-- ==== Sys2Proof/Syntax.lean ====
section
/-! DEFINITION. The instruction set as data: one constructor of `Instr` per row of
spec/opcode_table.json (151 rows), with the operand the row's bytes carry (spec/30_encoding.md R50,
R51, R53). `Instr.mnemonic` and `Instr.form` name the row's mnemonic and its addressing mode. -/

namespace Sys2Proof

/-- The 56 mnemonics (30_encoding.md R53). -/
inductive Mnemonic where
  | adc | and | asl | bcc | bcs | beq | bit | bmi | bne | bpl | brk | bvc | bvs | clc
  | cld | cli | clv | cmp | cpx | cpy | dec | dex | dey | eor | inc | inx | iny | jmp
  | jsr | lda | ldx | ldy | lsr | nop | ora | pha | php | pla | plp | rol | ror | rti
  | rts | sbc | sec | sed | sei | sta | stx | sty | tax | tay | tsx | txa | txs | tya
deriving DecidableEq, Repr

/-- The 13 addressing modes (40_step_and_addressing.md R64 to R76). -/
inductive Mode where
  | implied | accumulator | immediate | zeroPage | zeroPageX | zeroPageY | relative | absolute | absoluteX | absoluteY | indirect | indirectX | indirectY
deriving DecidableEq, Repr

/-- An addressing mode with the operand its bytes carry (30_encoding.md R50, R51). -/
inductive Form where
  | implied
  | accumulator
  | immediate (v : Byte)
  | zeroPage (z : Byte)
  | zeroPageX (z : Byte)
  | zeroPageY (z : Byte)
  | relative (d : Byte)
  | absolute (a : Addr)
  | absoluteX (a : Addr)
  | absoluteY (a : Addr)
  | indirect (p : Addr)
  | indirectX (z : Byte)
  | indirectY (z : Byte)
deriving DecidableEq, Repr

/-- The mode of a form. -/
def Form.mode : Form → Mode
  | .implied => .implied
  | .accumulator => .accumulator
  | .immediate _ => .immediate
  | .zeroPage _ => .zeroPage
  | .zeroPageX _ => .zeroPageX
  | .zeroPageY _ => .zeroPageY
  | .relative _ => .relative
  | .absolute _ => .absolute
  | .absoluteX _ => .absoluteX
  | .absoluteY _ => .absoluteY
  | .indirect _ => .indirect
  | .indirectX _ => .indirectX
  | .indirectY _ => .indirectY

/-- One constructor per opcode (30_encoding.md R53). A byte operand is `byte 1`; an address operand
is `{byte 2, byte 1}`. -/
inductive Instr where
  /-- 00: BRK implied (R171, R64). -/
  | brk
  /-- 01: ORA indirectX (R131, R75). -/
  | oraIndx (z : Byte)
  /-- 05: ORA zeroPage (R131, R67). -/
  | oraZp (z : Byte)
  /-- 06: ASL zeroPage (R134, R67). -/
  | aslZp (z : Byte)
  /-- 08: PHP implied (R161, R64). -/
  | php
  /-- 09: ORA immediate (R131, R66). -/
  | oraImm (v : Byte)
  /-- 0A: ASL accumulator (R134, R65). -/
  | aslAcc
  /-- 0D: ORA absolute (R131, R71). -/
  | oraAbs (a : Addr)
  /-- 0E: ASL absolute (R134, R71). -/
  | aslAbs (a : Addr)
  /-- 10: BPL relative (R146, R70). -/
  | bpl (d : Byte)
  /-- 11: ORA indirectY (R131, R76). -/
  | oraIndy (z : Byte)
  /-- 15: ORA zeroPageX (R131, R68). -/
  | oraZpx (z : Byte)
  /-- 16: ASL zeroPageX (R134, R68). -/
  | aslZpx (z : Byte)
  /-- 18: CLC implied (R164, R64). -/
  | clc
  /-- 19: ORA absoluteY (R131, R73). -/
  | oraAbsy (a : Addr)
  /-- 1D: ORA absoluteX (R131, R72). -/
  | oraAbsx (a : Addr)
  /-- 1E: ASL absoluteX (R134, R72). -/
  | aslAbsx (a : Addr)
  /-- 20: JSR absolute (R150, R71). -/
  | jsr (a : Addr)
  /-- 21: AND indirectX (R130, R75). -/
  | andIndx (z : Byte)
  /-- 24: BIT zeroPage (R133, R67). -/
  | bitZp (z : Byte)
  /-- 25: AND zeroPage (R130, R67). -/
  | andZp (z : Byte)
  /-- 26: ROL zeroPage (R136, R67). -/
  | rolZp (z : Byte)
  /-- 28: PLP implied (R163, R64). -/
  | plp
  /-- 29: AND immediate (R130, R66). -/
  | andImm (v : Byte)
  /-- 2A: ROL accumulator (R136, R65). -/
  | rolAcc
  /-- 2C: BIT absolute (R133, R71). -/
  | bitAbs (a : Addr)
  /-- 2D: AND absolute (R130, R71). -/
  | andAbs (a : Addr)
  /-- 2E: ROL absolute (R136, R71). -/
  | rolAbs (a : Addr)
  /-- 30: BMI relative (R145, R70). -/
  | bmi (d : Byte)
  /-- 31: AND indirectY (R130, R76). -/
  | andIndy (z : Byte)
  /-- 35: AND zeroPageX (R130, R68). -/
  | andZpx (z : Byte)
  /-- 36: ROL zeroPageX (R136, R68). -/
  | rolZpx (z : Byte)
  /-- 38: SEC implied (R165, R64). -/
  | sec
  /-- 39: AND absoluteY (R130, R73). -/
  | andAbsy (a : Addr)
  /-- 3D: AND absoluteX (R130, R72). -/
  | andAbsx (a : Addr)
  /-- 3E: ROL absoluteX (R136, R72). -/
  | rolAbsx (a : Addr)
  /-- 40: RTI implied (R172, R64). -/
  | rti
  /-- 41: EOR indirectX (R132, R75). -/
  | eorIndx (z : Byte)
  /-- 45: EOR zeroPage (R132, R67). -/
  | eorZp (z : Byte)
  /-- 46: LSR zeroPage (R135, R67). -/
  | lsrZp (z : Byte)
  /-- 48: PHA implied (R160, R64). -/
  | pha
  /-- 49: EOR immediate (R132, R66). -/
  | eorImm (v : Byte)
  /-- 4A: LSR accumulator (R135, R65). -/
  | lsrAcc
  /-- 4C: JMP absolute (R149, R71). -/
  | jmpAbs (a : Addr)
  /-- 4D: EOR absolute (R132, R71). -/
  | eorAbs (a : Addr)
  /-- 4E: LSR absolute (R135, R71). -/
  | lsrAbs (a : Addr)
  /-- 50: BVC relative (R147, R70). -/
  | bvc (d : Byte)
  /-- 51: EOR indirectY (R132, R76). -/
  | eorIndy (z : Byte)
  /-- 55: EOR zeroPageX (R132, R68). -/
  | eorZpx (z : Byte)
  /-- 56: LSR zeroPageX (R135, R68). -/
  | lsrZpx (z : Byte)
  /-- 58: CLI implied (R166, R64). -/
  | cli
  /-- 59: EOR absoluteY (R132, R73). -/
  | eorAbsy (a : Addr)
  /-- 5D: EOR absoluteX (R132, R72). -/
  | eorAbsx (a : Addr)
  /-- 5E: LSR absoluteX (R135, R72). -/
  | lsrAbsx (a : Addr)
  /-- 60: RTS implied (R151, R64). -/
  | rts
  /-- 61: ADC indirectX (R114, R75). -/
  | adcIndx (z : Byte)
  /-- 65: ADC zeroPage (R114, R67). -/
  | adcZp (z : Byte)
  /-- 66: ROR zeroPage (R137, R67). -/
  | rorZp (z : Byte)
  /-- 68: PLA implied (R162, R64). -/
  | pla
  /-- 69: ADC immediate (R114, R66). -/
  | adcImm (v : Byte)
  /-- 6A: ROR accumulator (R137, R65). -/
  | rorAcc
  /-- 6C: JMP indirect (R149, R74). -/
  | jmpInd (p : Addr)
  /-- 6D: ADC absolute (R114, R71). -/
  | adcAbs (a : Addr)
  /-- 6E: ROR absolute (R137, R71). -/
  | rorAbs (a : Addr)
  /-- 70: BVS relative (R148, R70). -/
  | bvs (d : Byte)
  /-- 71: ADC indirectY (R114, R76). -/
  | adcIndy (z : Byte)
  /-- 75: ADC zeroPageX (R114, R68). -/
  | adcZpx (z : Byte)
  /-- 76: ROR zeroPageX (R137, R68). -/
  | rorZpx (z : Byte)
  /-- 78: SEI implied (R167, R64). -/
  | sei
  /-- 79: ADC absoluteY (R114, R73). -/
  | adcAbsy (a : Addr)
  /-- 7D: ADC absoluteX (R114, R72). -/
  | adcAbsx (a : Addr)
  /-- 7E: ROR absoluteX (R137, R72). -/
  | rorAbsx (a : Addr)
  /-- 81: STA indirectX (R93, R75). -/
  | staIndx (z : Byte)
  /-- 84: STY zeroPage (R95, R67). -/
  | styZp (z : Byte)
  /-- 85: STA zeroPage (R93, R67). -/
  | staZp (z : Byte)
  /-- 86: STX zeroPage (R94, R67). -/
  | stxZp (z : Byte)
  /-- 88: DEY implied (R124, R64). -/
  | dey
  /-- 8A: TXA implied (R98, R64). -/
  | txa
  /-- 8C: STY absolute (R95, R71). -/
  | styAbs (a : Addr)
  /-- 8D: STA absolute (R93, R71). -/
  | staAbs (a : Addr)
  /-- 8E: STX absolute (R94, R71). -/
  | stxAbs (a : Addr)
  /-- 90: BCC relative (R141, R70). -/
  | bcc (d : Byte)
  /-- 91: STA indirectY (R93, R76). -/
  | staIndy (z : Byte)
  /-- 94: STY zeroPageX (R95, R68). -/
  | styZpx (z : Byte)
  /-- 95: STA zeroPageX (R93, R68). -/
  | staZpx (z : Byte)
  /-- 96: STX zeroPageY (R94, R69). -/
  | stxZpy (z : Byte)
  /-- 98: TYA implied (R99, R64). -/
  | tya
  /-- 99: STA absoluteY (R93, R73). -/
  | staAbsy (a : Addr)
  /-- 9A: TXS implied (R101, R64). -/
  | txs
  /-- 9D: STA absoluteX (R93, R72). -/
  | staAbsx (a : Addr)
  /-- A0: LDY immediate (R92, R66). -/
  | ldyImm (v : Byte)
  /-- A1: LDA indirectX (R90, R75). -/
  | ldaIndx (z : Byte)
  /-- A2: LDX immediate (R91, R66). -/
  | ldxImm (v : Byte)
  /-- A4: LDY zeroPage (R92, R67). -/
  | ldyZp (z : Byte)
  /-- A5: LDA zeroPage (R90, R67). -/
  | ldaZp (z : Byte)
  /-- A6: LDX zeroPage (R91, R67). -/
  | ldxZp (z : Byte)
  /-- A8: TAY implied (R97, R64). -/
  | tay
  /-- A9: LDA immediate (R90, R66). -/
  | ldaImm (v : Byte)
  /-- AA: TAX implied (R96, R64). -/
  | tax
  /-- AC: LDY absolute (R92, R71). -/
  | ldyAbs (a : Addr)
  /-- AD: LDA absolute (R90, R71). -/
  | ldaAbs (a : Addr)
  /-- AE: LDX absolute (R91, R71). -/
  | ldxAbs (a : Addr)
  /-- B0: BCS relative (R142, R70). -/
  | bcs (d : Byte)
  /-- B1: LDA indirectY (R90, R76). -/
  | ldaIndy (z : Byte)
  /-- B4: LDY zeroPageX (R92, R68). -/
  | ldyZpx (z : Byte)
  /-- B5: LDA zeroPageX (R90, R68). -/
  | ldaZpx (z : Byte)
  /-- B6: LDX zeroPageY (R91, R69). -/
  | ldxZpy (z : Byte)
  /-- B8: CLV implied (R168, R64). -/
  | clv
  /-- B9: LDA absoluteY (R90, R73). -/
  | ldaAbsy (a : Addr)
  /-- BA: TSX implied (R100, R64). -/
  | tsx
  /-- BC: LDY absoluteX (R92, R72). -/
  | ldyAbsx (a : Addr)
  /-- BD: LDA absoluteX (R90, R72). -/
  | ldaAbsx (a : Addr)
  /-- BE: LDX absoluteY (R91, R73). -/
  | ldxAbsy (a : Addr)
  /-- C0: CPY immediate (R118, R66). -/
  | cpyImm (v : Byte)
  /-- C1: CMP indirectX (R116, R75). -/
  | cmpIndx (z : Byte)
  /-- C4: CPY zeroPage (R118, R67). -/
  | cpyZp (z : Byte)
  /-- C5: CMP zeroPage (R116, R67). -/
  | cmpZp (z : Byte)
  /-- C6: DEC zeroPage (R120, R67). -/
  | decZp (z : Byte)
  /-- C8: INY implied (R122, R64). -/
  | iny
  /-- C9: CMP immediate (R116, R66). -/
  | cmpImm (v : Byte)
  /-- CA: DEX implied (R123, R64). -/
  | dex
  /-- CC: CPY absolute (R118, R71). -/
  | cpyAbs (a : Addr)
  /-- CD: CMP absolute (R116, R71). -/
  | cmpAbs (a : Addr)
  /-- CE: DEC absolute (R120, R71). -/
  | decAbs (a : Addr)
  /-- D0: BNE relative (R144, R70). -/
  | bne (d : Byte)
  /-- D1: CMP indirectY (R116, R76). -/
  | cmpIndy (z : Byte)
  /-- D5: CMP zeroPageX (R116, R68). -/
  | cmpZpx (z : Byte)
  /-- D6: DEC zeroPageX (R120, R68). -/
  | decZpx (z : Byte)
  /-- D8: CLD implied (R169, R64). -/
  | cld
  /-- D9: CMP absoluteY (R116, R73). -/
  | cmpAbsy (a : Addr)
  /-- DD: CMP absoluteX (R116, R72). -/
  | cmpAbsx (a : Addr)
  /-- DE: DEC absoluteX (R120, R72). -/
  | decAbsx (a : Addr)
  /-- E0: CPX immediate (R117, R66). -/
  | cpxImm (v : Byte)
  /-- E1: SBC indirectX (R115, R75). -/
  | sbcIndx (z : Byte)
  /-- E4: CPX zeroPage (R117, R67). -/
  | cpxZp (z : Byte)
  /-- E5: SBC zeroPage (R115, R67). -/
  | sbcZp (z : Byte)
  /-- E6: INC zeroPage (R119, R67). -/
  | incZp (z : Byte)
  /-- E8: INX implied (R121, R64). -/
  | inx
  /-- E9: SBC immediate (R115, R66). -/
  | sbcImm (v : Byte)
  /-- EA: NOP implied (R173, R64). -/
  | nop
  /-- EC: CPX absolute (R117, R71). -/
  | cpxAbs (a : Addr)
  /-- ED: SBC absolute (R115, R71). -/
  | sbcAbs (a : Addr)
  /-- EE: INC absolute (R119, R71). -/
  | incAbs (a : Addr)
  /-- F0: BEQ relative (R143, R70). -/
  | beq (d : Byte)
  /-- F1: SBC indirectY (R115, R76). -/
  | sbcIndy (z : Byte)
  /-- F5: SBC zeroPageX (R115, R68). -/
  | sbcZpx (z : Byte)
  /-- F6: INC zeroPageX (R119, R68). -/
  | incZpx (z : Byte)
  /-- F8: SED implied (R170, R64). -/
  | sed
  /-- F9: SBC absoluteY (R115, R73). -/
  | sbcAbsy (a : Addr)
  /-- FD: SBC absoluteX (R115, R72). -/
  | sbcAbsx (a : Addr)
  /-- FE: INC absoluteX (R119, R72). -/
  | incAbsx (a : Addr)
deriving DecidableEq, Repr

/-- The mnemonic of an instruction. -/
def Instr.mnemonic : Instr → Mnemonic
  | .brk => .brk
  | .oraIndx _ => .ora
  | .oraZp _ => .ora
  | .aslZp _ => .asl
  | .php => .php
  | .oraImm _ => .ora
  | .aslAcc => .asl
  | .oraAbs _ => .ora
  | .aslAbs _ => .asl
  | .bpl _ => .bpl
  | .oraIndy _ => .ora
  | .oraZpx _ => .ora
  | .aslZpx _ => .asl
  | .clc => .clc
  | .oraAbsy _ => .ora
  | .oraAbsx _ => .ora
  | .aslAbsx _ => .asl
  | .jsr _ => .jsr
  | .andIndx _ => .and
  | .bitZp _ => .bit
  | .andZp _ => .and
  | .rolZp _ => .rol
  | .plp => .plp
  | .andImm _ => .and
  | .rolAcc => .rol
  | .bitAbs _ => .bit
  | .andAbs _ => .and
  | .rolAbs _ => .rol
  | .bmi _ => .bmi
  | .andIndy _ => .and
  | .andZpx _ => .and
  | .rolZpx _ => .rol
  | .sec => .sec
  | .andAbsy _ => .and
  | .andAbsx _ => .and
  | .rolAbsx _ => .rol
  | .rti => .rti
  | .eorIndx _ => .eor
  | .eorZp _ => .eor
  | .lsrZp _ => .lsr
  | .pha => .pha
  | .eorImm _ => .eor
  | .lsrAcc => .lsr
  | .jmpAbs _ => .jmp
  | .eorAbs _ => .eor
  | .lsrAbs _ => .lsr
  | .bvc _ => .bvc
  | .eorIndy _ => .eor
  | .eorZpx _ => .eor
  | .lsrZpx _ => .lsr
  | .cli => .cli
  | .eorAbsy _ => .eor
  | .eorAbsx _ => .eor
  | .lsrAbsx _ => .lsr
  | .rts => .rts
  | .adcIndx _ => .adc
  | .adcZp _ => .adc
  | .rorZp _ => .ror
  | .pla => .pla
  | .adcImm _ => .adc
  | .rorAcc => .ror
  | .jmpInd _ => .jmp
  | .adcAbs _ => .adc
  | .rorAbs _ => .ror
  | .bvs _ => .bvs
  | .adcIndy _ => .adc
  | .adcZpx _ => .adc
  | .rorZpx _ => .ror
  | .sei => .sei
  | .adcAbsy _ => .adc
  | .adcAbsx _ => .adc
  | .rorAbsx _ => .ror
  | .staIndx _ => .sta
  | .styZp _ => .sty
  | .staZp _ => .sta
  | .stxZp _ => .stx
  | .dey => .dey
  | .txa => .txa
  | .styAbs _ => .sty
  | .staAbs _ => .sta
  | .stxAbs _ => .stx
  | .bcc _ => .bcc
  | .staIndy _ => .sta
  | .styZpx _ => .sty
  | .staZpx _ => .sta
  | .stxZpy _ => .stx
  | .tya => .tya
  | .staAbsy _ => .sta
  | .txs => .txs
  | .staAbsx _ => .sta
  | .ldyImm _ => .ldy
  | .ldaIndx _ => .lda
  | .ldxImm _ => .ldx
  | .ldyZp _ => .ldy
  | .ldaZp _ => .lda
  | .ldxZp _ => .ldx
  | .tay => .tay
  | .ldaImm _ => .lda
  | .tax => .tax
  | .ldyAbs _ => .ldy
  | .ldaAbs _ => .lda
  | .ldxAbs _ => .ldx
  | .bcs _ => .bcs
  | .ldaIndy _ => .lda
  | .ldyZpx _ => .ldy
  | .ldaZpx _ => .lda
  | .ldxZpy _ => .ldx
  | .clv => .clv
  | .ldaAbsy _ => .lda
  | .tsx => .tsx
  | .ldyAbsx _ => .ldy
  | .ldaAbsx _ => .lda
  | .ldxAbsy _ => .ldx
  | .cpyImm _ => .cpy
  | .cmpIndx _ => .cmp
  | .cpyZp _ => .cpy
  | .cmpZp _ => .cmp
  | .decZp _ => .dec
  | .iny => .iny
  | .cmpImm _ => .cmp
  | .dex => .dex
  | .cpyAbs _ => .cpy
  | .cmpAbs _ => .cmp
  | .decAbs _ => .dec
  | .bne _ => .bne
  | .cmpIndy _ => .cmp
  | .cmpZpx _ => .cmp
  | .decZpx _ => .dec
  | .cld => .cld
  | .cmpAbsy _ => .cmp
  | .cmpAbsx _ => .cmp
  | .decAbsx _ => .dec
  | .cpxImm _ => .cpx
  | .sbcIndx _ => .sbc
  | .cpxZp _ => .cpx
  | .sbcZp _ => .sbc
  | .incZp _ => .inc
  | .inx => .inx
  | .sbcImm _ => .sbc
  | .nop => .nop
  | .cpxAbs _ => .cpx
  | .sbcAbs _ => .sbc
  | .incAbs _ => .inc
  | .beq _ => .beq
  | .sbcIndy _ => .sbc
  | .sbcZpx _ => .sbc
  | .incZpx _ => .inc
  | .sed => .sed
  | .sbcAbsy _ => .sbc
  | .sbcAbsx _ => .sbc
  | .incAbsx _ => .inc

/-- The addressing mode and operand of an instruction. -/
def Instr.form : Instr → Form
  | .brk => .implied
  | .oraIndx z => .indirectX z
  | .oraZp z => .zeroPage z
  | .aslZp z => .zeroPage z
  | .php => .implied
  | .oraImm v => .immediate v
  | .aslAcc => .accumulator
  | .oraAbs a => .absolute a
  | .aslAbs a => .absolute a
  | .bpl d => .relative d
  | .oraIndy z => .indirectY z
  | .oraZpx z => .zeroPageX z
  | .aslZpx z => .zeroPageX z
  | .clc => .implied
  | .oraAbsy a => .absoluteY a
  | .oraAbsx a => .absoluteX a
  | .aslAbsx a => .absoluteX a
  | .jsr a => .absolute a
  | .andIndx z => .indirectX z
  | .bitZp z => .zeroPage z
  | .andZp z => .zeroPage z
  | .rolZp z => .zeroPage z
  | .plp => .implied
  | .andImm v => .immediate v
  | .rolAcc => .accumulator
  | .bitAbs a => .absolute a
  | .andAbs a => .absolute a
  | .rolAbs a => .absolute a
  | .bmi d => .relative d
  | .andIndy z => .indirectY z
  | .andZpx z => .zeroPageX z
  | .rolZpx z => .zeroPageX z
  | .sec => .implied
  | .andAbsy a => .absoluteY a
  | .andAbsx a => .absoluteX a
  | .rolAbsx a => .absoluteX a
  | .rti => .implied
  | .eorIndx z => .indirectX z
  | .eorZp z => .zeroPage z
  | .lsrZp z => .zeroPage z
  | .pha => .implied
  | .eorImm v => .immediate v
  | .lsrAcc => .accumulator
  | .jmpAbs a => .absolute a
  | .eorAbs a => .absolute a
  | .lsrAbs a => .absolute a
  | .bvc d => .relative d
  | .eorIndy z => .indirectY z
  | .eorZpx z => .zeroPageX z
  | .lsrZpx z => .zeroPageX z
  | .cli => .implied
  | .eorAbsy a => .absoluteY a
  | .eorAbsx a => .absoluteX a
  | .lsrAbsx a => .absoluteX a
  | .rts => .implied
  | .adcIndx z => .indirectX z
  | .adcZp z => .zeroPage z
  | .rorZp z => .zeroPage z
  | .pla => .implied
  | .adcImm v => .immediate v
  | .rorAcc => .accumulator
  | .jmpInd p => .indirect p
  | .adcAbs a => .absolute a
  | .rorAbs a => .absolute a
  | .bvs d => .relative d
  | .adcIndy z => .indirectY z
  | .adcZpx z => .zeroPageX z
  | .rorZpx z => .zeroPageX z
  | .sei => .implied
  | .adcAbsy a => .absoluteY a
  | .adcAbsx a => .absoluteX a
  | .rorAbsx a => .absoluteX a
  | .staIndx z => .indirectX z
  | .styZp z => .zeroPage z
  | .staZp z => .zeroPage z
  | .stxZp z => .zeroPage z
  | .dey => .implied
  | .txa => .implied
  | .styAbs a => .absolute a
  | .staAbs a => .absolute a
  | .stxAbs a => .absolute a
  | .bcc d => .relative d
  | .staIndy z => .indirectY z
  | .styZpx z => .zeroPageX z
  | .staZpx z => .zeroPageX z
  | .stxZpy z => .zeroPageY z
  | .tya => .implied
  | .staAbsy a => .absoluteY a
  | .txs => .implied
  | .staAbsx a => .absoluteX a
  | .ldyImm v => .immediate v
  | .ldaIndx z => .indirectX z
  | .ldxImm v => .immediate v
  | .ldyZp z => .zeroPage z
  | .ldaZp z => .zeroPage z
  | .ldxZp z => .zeroPage z
  | .tay => .implied
  | .ldaImm v => .immediate v
  | .tax => .implied
  | .ldyAbs a => .absolute a
  | .ldaAbs a => .absolute a
  | .ldxAbs a => .absolute a
  | .bcs d => .relative d
  | .ldaIndy z => .indirectY z
  | .ldyZpx z => .zeroPageX z
  | .ldaZpx z => .zeroPageX z
  | .ldxZpy z => .zeroPageY z
  | .clv => .implied
  | .ldaAbsy a => .absoluteY a
  | .tsx => .implied
  | .ldyAbsx a => .absoluteX a
  | .ldaAbsx a => .absoluteX a
  | .ldxAbsy a => .absoluteY a
  | .cpyImm v => .immediate v
  | .cmpIndx z => .indirectX z
  | .cpyZp z => .zeroPage z
  | .cmpZp z => .zeroPage z
  | .decZp z => .zeroPage z
  | .iny => .implied
  | .cmpImm v => .immediate v
  | .dex => .implied
  | .cpyAbs a => .absolute a
  | .cmpAbs a => .absolute a
  | .decAbs a => .absolute a
  | .bne d => .relative d
  | .cmpIndy z => .indirectY z
  | .cmpZpx z => .zeroPageX z
  | .decZpx z => .zeroPageX z
  | .cld => .implied
  | .cmpAbsy a => .absoluteY a
  | .cmpAbsx a => .absoluteX a
  | .decAbsx a => .absoluteX a
  | .cpxImm v => .immediate v
  | .sbcIndx z => .indirectX z
  | .cpxZp z => .zeroPage z
  | .sbcZp z => .zeroPage z
  | .incZp z => .zeroPage z
  | .inx => .implied
  | .sbcImm v => .immediate v
  | .nop => .implied
  | .cpxAbs a => .absolute a
  | .sbcAbs a => .absolute a
  | .incAbs a => .absolute a
  | .beq d => .relative d
  | .sbcIndy z => .indirectY z
  | .sbcZpx z => .zeroPageX z
  | .incZpx z => .zeroPageX z
  | .sed => .implied
  | .sbcAbsy a => .absoluteY a
  | .sbcAbsx a => .absoluteX a
  | .incAbsx a => .absoluteX a

end Sys2Proof
end

