-- ==== Sys2Proof/Machine/Operands.lean ====
section
/-! DEFINITION. The addressing-mode resolver and the operand accesses (spec/40_step_and_addressing.md
R64 to R77, R82). The operand bytes have been read from the bus by the fetch (Machine/Fetch.lean)
and stand in the form; the resolver adds what is left: indexing, pointer reads and the advance of
`PC`, which on entry is the address of the opcode byte. -/

namespace Sys2Proof.Machine

/-- What a resolver yields (40_step_and_addressing.md R82, R77). An immediate operand is the byte at
`pc0 + 1`, already read once through the bus by the fetch (log entry 6). -/
inductive Operand where
  /-- No operand: the accumulator and the implied forms. -/
  | none
  /-- The immediate byte. -/
  | imm (v : Byte)
  /-- A 16-bit address, not yet dereferenced. -/
  | addr (a : Addr)
  /-- The displacement of a branch. -/
  | disp (d : Byte)
deriving DecidableEq, Repr

/-- `Resolve(mode)` (40_step_and_addressing.md R64 to R76). The relative resolver leaves `PC` at the
displacement byte (R70); every other one leaves it past the instruction (R82). -/
def resolve (f : Form) (s : State) : Option (Operand × State) :=
  match f with
  | .implied => some (.none, advance 1 s)
  | .accumulator => some (.none, advance 1 s)
  | .immediate v => some (.imm v, advance 2 s)
  | .zeroPage z => some (.addr (zext16 z), advance 2 s)
  | .zeroPageX z => some (.addr (zext16 (z + s.x)), advance 2 s)
  | .zeroPageY z => some (.addr (zext16 (z + s.y)), advance 2 s)
  | .relative d => some (.disp d, advance 1 s)
  | .absolute a => some (.addr a, advance 3 s)
  | .absoluteX a => some (.addr (a + zext16 s.x), advance 3 s)
  | .absoluteY a => some (.addr (a + zext16 s.y), advance 3 s)
  | .indirect p =>
    match read16Bug p (advance 3 s) with
    | none => none
    | some (a, t) => some (.addr a, t)
  | .indirectX z =>
    match read16Bug (zext16 (z + s.x)) (advance 2 s) with
    | none => none
    | some (a, t) => some (.addr a, t)
  | .indirectY z =>
    match read16Bug (zext16 z) (advance 2 s) with
    | none => none
    | some (b, t) => some (.addr (b + zext16 t.y), t)

/-- `Load(op)` (40_step_and_addressing.md R77). A displacement is loaded by no instruction; its line
only makes the function total (log entry 10). -/
def load (op : Operand) (s : State) : Option (Byte × State) :=
  match op with
  | .none => some (s.a, s)
  | .imm v => some (v, s)
  | .addr a => busRead a s
  | .disp d => some (d, s)

/-- `Store(op, v)` (40_step_and_addressing.md R77). No instruction stores to an immediate or a
displacement; those lines only make the function total (log entry 10). -/
def store (op : Operand) (v : Byte) (s : State) : State :=
  match op with
  | .none => s.setA v
  | .addr a => busWrite a v s
  | .imm _ => s
  | .disp _ => s

/-- The frame every instruction runs in: the resolver first, to its end, then the instruction
(40_step_and_addressing.md R60). -/
def withOperand (f : Form) (g : Operand → State → Option State) (s : State) : Result :=
  match resolve f s with
  | none => .fault .consoleWait
  | some (op, t) => finish (g op t)

/-- An instruction that reads its operand once and then computes (40_step_and_addressing.md R77). -/
def withValue (f : Form) (g : Byte → State → State) (s : State) : Result :=
  withOperand f (fun op t =>
    match load op t with
    | none => none
    | some (v, u) => some (g v u)) s

/-- An instruction that needs no operand value and no bus read of its own. -/
def withTarget (f : Form) (g : Operand → State → State) (s : State) : Result :=
  withOperand f (fun op t => some (g op t)) s

/-- INC and DEC on memory: one `Load`, one `Store` to the same operand, then Z and N
(20_memory.md R39, 42_arithmetic.md R119, R120). -/
def stepOperand (f : Form) (g : Byte → Byte) (s : State) : Result :=
  withOperand f (fun op t =>
    match load op t with
    | none => none
    | some (v, u) => some (updateZN (g v) (store op (g v) u))) s

/-- The frame of the four shifts: one `Load`, one `Store` to the same operand, then C, Z and N
(20_memory.md R39, 43_logic_shift.md section 2). -/
def shiftOperand (f : Form) (g : Byte → Bool → ShiftOut) (s : State) : Result :=
  withOperand f (fun op t =>
    match load op t with
    | none => none
    | some (v, u) =>
      let r := g v (getFlag .c u.p)
      some (updateZN r.result (writeFlag .c r.cout (store op r.result u)))) s

end Sys2Proof.Machine
end

