-- ==== Sys2Proof/Machine/Arithmetic.lean ====
section
/-! DEFINITION. Arithmetic, compare, increment and decrement (spec/42_arithmetic.md R114 to R124). ADC and SBC
never read the Decimal flag (R113).
One meaning per mnemonic over its addressing mode, then one definition per opcode. -/

namespace Sys2Proof.Machine

/-- The adder's outputs written back: `A`, C, V, then Z and N from the result (42_arithmetic.md R114, R115). -/
def addResult (r : AluOut) (s : State) : State :=
  updateZN r.result (writeFlag .v r.ovf (writeFlag .c r.carry (s.setA r.result)))

/-- ADC, add with carry: `Add8(A, m, C)`; C, V, Z, N (R114). -/
def meanAdc (f : Form) (s : State) : Result :=
  withValue f (fun m t => addResult (add8 t.a m (getFlag .c t.p)) t) s

/-- ADC indirectX, opcode 61 (R114, R75). -/
def execAdcIndx (z : Byte) (s : State) : Result := meanAdc (.indirectX z) s
/-- ADC zeroPage, opcode 65 (R114, R67). -/
def execAdcZp (z : Byte) (s : State) : Result := meanAdc (.zeroPage z) s
/-- ADC immediate, opcode 69 (R114, R66). -/
def execAdcImm (v : Byte) (s : State) : Result := meanAdc (.immediate v) s
/-- ADC absolute, opcode 6D (R114, R71). -/
def execAdcAbs (a : Addr) (s : State) : Result := meanAdc (.absolute a) s
/-- ADC indirectY, opcode 71 (R114, R76). -/
def execAdcIndy (z : Byte) (s : State) : Result := meanAdc (.indirectY z) s
/-- ADC zeroPageX, opcode 75 (R114, R68). -/
def execAdcZpx (z : Byte) (s : State) : Result := meanAdc (.zeroPageX z) s
/-- ADC absoluteY, opcode 79 (R114, R73). -/
def execAdcAbsy (a : Addr) (s : State) : Result := meanAdc (.absoluteY a) s
/-- ADC absoluteX, opcode 7D (R114, R72). -/
def execAdcAbsx (a : Addr) (s : State) : Result := meanAdc (.absoluteX a) s

/-- SBC, subtract with borrow: `Sub8(A, m, C)`; C, V, Z, N (R115). -/
def meanSbc (f : Form) (s : State) : Result :=
  withValue f (fun m t => addResult (sub8 t.a m (getFlag .c t.p)) t) s

/-- SBC indirectX, opcode E1 (R115, R75). -/
def execSbcIndx (z : Byte) (s : State) : Result := meanSbc (.indirectX z) s
/-- SBC zeroPage, opcode E5 (R115, R67). -/
def execSbcZp (z : Byte) (s : State) : Result := meanSbc (.zeroPage z) s
/-- SBC immediate, opcode E9 (R115, R66). -/
def execSbcImm (v : Byte) (s : State) : Result := meanSbc (.immediate v) s
/-- SBC absolute, opcode ED (R115, R71). -/
def execSbcAbs (a : Addr) (s : State) : Result := meanSbc (.absolute a) s
/-- SBC indirectY, opcode F1 (R115, R76). -/
def execSbcIndy (z : Byte) (s : State) : Result := meanSbc (.indirectY z) s
/-- SBC zeroPageX, opcode F5 (R115, R68). -/
def execSbcZpx (z : Byte) (s : State) : Result := meanSbc (.zeroPageX z) s
/-- SBC absoluteY, opcode F9 (R115, R73). -/
def execSbcAbsy (a : Addr) (s : State) : Result := meanSbc (.absoluteY a) s
/-- SBC absoluteX, opcode FD (R115, R72). -/
def execSbcAbsx (a : Addr) (s : State) : Result := meanSbc (.absoluteX a) s

/-- CMP, compare accumulator: `Cmp8(A, m)` (R116). -/
def meanCmp (f : Form) (s : State) : Result :=
  withValue f (fun m t => t.setP (cmp8 t.a m t.p)) s

/-- CMP indirectX, opcode C1 (R116, R75). -/
def execCmpIndx (z : Byte) (s : State) : Result := meanCmp (.indirectX z) s
/-- CMP zeroPage, opcode C5 (R116, R67). -/
def execCmpZp (z : Byte) (s : State) : Result := meanCmp (.zeroPage z) s
/-- CMP immediate, opcode C9 (R116, R66). -/
def execCmpImm (v : Byte) (s : State) : Result := meanCmp (.immediate v) s
/-- CMP absolute, opcode CD (R116, R71). -/
def execCmpAbs (a : Addr) (s : State) : Result := meanCmp (.absolute a) s
/-- CMP indirectY, opcode D1 (R116, R76). -/
def execCmpIndy (z : Byte) (s : State) : Result := meanCmp (.indirectY z) s
/-- CMP zeroPageX, opcode D5 (R116, R68). -/
def execCmpZpx (z : Byte) (s : State) : Result := meanCmp (.zeroPageX z) s
/-- CMP absoluteY, opcode D9 (R116, R73). -/
def execCmpAbsy (a : Addr) (s : State) : Result := meanCmp (.absoluteY a) s
/-- CMP absoluteX, opcode DD (R116, R72). -/
def execCmpAbsx (a : Addr) (s : State) : Result := meanCmp (.absoluteX a) s

/-- CPX, compare X: `Cmp8(X, m)` (R117). -/
def meanCpx (f : Form) (s : State) : Result :=
  withValue f (fun m t => t.setP (cmp8 t.x m t.p)) s

/-- CPX immediate, opcode E0 (R117, R66). -/
def execCpxImm (v : Byte) (s : State) : Result := meanCpx (.immediate v) s
/-- CPX zeroPage, opcode E4 (R117, R67). -/
def execCpxZp (z : Byte) (s : State) : Result := meanCpx (.zeroPage z) s
/-- CPX absolute, opcode EC (R117, R71). -/
def execCpxAbs (a : Addr) (s : State) : Result := meanCpx (.absolute a) s

/-- CPY, compare Y: `Cmp8(Y, m)` (R118). -/
def meanCpy (f : Form) (s : State) : Result :=
  withValue f (fun m t => t.setP (cmp8 t.y m t.p)) s

/-- CPY immediate, opcode C0 (R118, R66). -/
def execCpyImm (v : Byte) (s : State) : Result := meanCpy (.immediate v) s
/-- CPY zeroPage, opcode C4 (R118, R67). -/
def execCpyZp (z : Byte) (s : State) : Result := meanCpy (.zeroPage z) s
/-- CPY absolute, opcode CC (R118, R71). -/
def execCpyAbs (a : Addr) (s : State) : Result := meanCpy (.absolute a) s

/-- INC, increment memory (R119). -/
def meanInc (f : Form) (s : State) : Result :=
  stepOperand f (fun m => m + 1) s

/-- INC zeroPage, opcode E6 (R119, R67). -/
def execIncZp (z : Byte) (s : State) : Result := meanInc (.zeroPage z) s
/-- INC absolute, opcode EE (R119, R71). -/
def execIncAbs (a : Addr) (s : State) : Result := meanInc (.absolute a) s
/-- INC zeroPageX, opcode F6 (R119, R68). -/
def execIncZpx (z : Byte) (s : State) : Result := meanInc (.zeroPageX z) s
/-- INC absoluteX, opcode FE (R119, R72). -/
def execIncAbsx (a : Addr) (s : State) : Result := meanInc (.absoluteX a) s

/-- DEC, decrement memory (R120). -/
def meanDec (f : Form) (s : State) : Result :=
  stepOperand f (fun m => m - 1) s

/-- DEC zeroPage, opcode C6 (R120, R67). -/
def execDecZp (z : Byte) (s : State) : Result := meanDec (.zeroPage z) s
/-- DEC absolute, opcode CE (R120, R71). -/
def execDecAbs (a : Addr) (s : State) : Result := meanDec (.absolute a) s
/-- DEC zeroPageX, opcode D6 (R120, R68). -/
def execDecZpx (z : Byte) (s : State) : Result := meanDec (.zeroPageX z) s
/-- DEC absoluteX, opcode DE (R120, R72). -/
def execDecAbsx (a : Addr) (s : State) : Result := meanDec (.absoluteX a) s

/-- INX, `X <- X + 1; SetZN(X)` (R121). -/
def meanInx (f : Form) (s : State) : Result :=
  withTarget f (fun _ t => updateZN (t.x + 1) (t.setX (t.x + 1))) s

/-- INX implied, opcode E8 (R121, R64). -/
def execInx (s : State) : Result := meanInx .implied s

/-- INY, `Y <- Y + 1; SetZN(Y)` (R122). -/
def meanIny (f : Form) (s : State) : Result :=
  withTarget f (fun _ t => updateZN (t.y + 1) (t.setY (t.y + 1))) s

/-- INY implied, opcode C8 (R122, R64). -/
def execIny (s : State) : Result := meanIny .implied s

/-- DEX, `X <- X - 1; SetZN(X)` (R123). -/
def meanDex (f : Form) (s : State) : Result :=
  withTarget f (fun _ t => updateZN (t.x - 1) (t.setX (t.x - 1))) s

/-- DEX implied, opcode CA (R123, R64). -/
def execDex (s : State) : Result := meanDex .implied s

/-- DEY, `Y <- Y - 1; SetZN(Y)` (R124). -/
def meanDey (f : Form) (s : State) : Result :=
  withTarget f (fun _ t => updateZN (t.y - 1) (t.setY (t.y - 1))) s

/-- DEY implied, opcode 88 (R124, R64). -/
def execDey (s : State) : Result := meanDey .implied s

end Sys2Proof.Machine
end

