-- ==== Sys2Proof/Machine/Control.lean ====
section
/-! DEFINITION. Branches, jumps, subroutine call and return (spec/44_control_flow.md R140 to R151).
One meaning per mnemonic over its addressing mode, then one definition per opcode. -/

namespace Sys2Proof.Machine

/-- `Branch(cond, Disp(d))` on the resolver's operand (44_control_flow.md R140): `PC` past the displacement
byte, then the signed displacement added if the flag test on `P` holds. Only a displacement operand
reaches it. -/
def branchTo (cond : Byte → Bool) (op : Operand) (s : State) : State :=
  let u := advance 1 s
  match op with
  | .disp d => if cond s.p then u.setPc (u.pc + sext16 d) else u
  | _ => u

/-- A branch instruction (44_control_flow.md R140). -/
def branchIf (cond : Byte → Bool) (f : Form) (s : State) : Result := withTarget f (branchTo cond) s

/-- `PC <- a` for a resolved address (44_control_flow.md R149). JMP and JSR have address operands only;
the other lines make the function total (log entry 10). -/
def jumpTo (op : Operand) (s : State) : State :=
  match op with
  | .addr a => s.setPc a
  | _ => s

/-- BCC, branch if C = 0 (R141). -/
def meanBcc (f : Form) (s : State) : Result :=
  branchIf (fun p => !getFlag .c p) f s

/-- BCC relative, opcode 90 (R141, R70). -/
def execBcc (d : Byte) (s : State) : Result := meanBcc (.relative d) s

/-- BCS, branch if C = 1 (R142). -/
def meanBcs (f : Form) (s : State) : Result :=
  branchIf (fun p => getFlag .c p) f s

/-- BCS relative, opcode B0 (R142, R70). -/
def execBcs (d : Byte) (s : State) : Result := meanBcs (.relative d) s

/-- BEQ, branch if Z = 1 (R143). -/
def meanBeq (f : Form) (s : State) : Result :=
  branchIf (fun p => getFlag .z p) f s

/-- BEQ relative, opcode F0 (R143, R70). -/
def execBeq (d : Byte) (s : State) : Result := meanBeq (.relative d) s

/-- BNE, branch if Z = 0 (R144). -/
def meanBne (f : Form) (s : State) : Result :=
  branchIf (fun p => !getFlag .z p) f s

/-- BNE relative, opcode D0 (R144, R70). -/
def execBne (d : Byte) (s : State) : Result := meanBne (.relative d) s

/-- BMI, branch if N = 1 (R145). -/
def meanBmi (f : Form) (s : State) : Result :=
  branchIf (fun p => getFlag .n p) f s

/-- BMI relative, opcode 30 (R145, R70). -/
def execBmi (d : Byte) (s : State) : Result := meanBmi (.relative d) s

/-- BPL, branch if N = 0 (R146). -/
def meanBpl (f : Form) (s : State) : Result :=
  branchIf (fun p => !getFlag .n p) f s

/-- BPL relative, opcode 10 (R146, R70). -/
def execBpl (d : Byte) (s : State) : Result := meanBpl (.relative d) s

/-- BVC, branch if V = 0 (R147). -/
def meanBvc (f : Form) (s : State) : Result :=
  branchIf (fun p => !getFlag .v p) f s

/-- BVC relative, opcode 50 (R147, R70). -/
def execBvc (d : Byte) (s : State) : Result := meanBvc (.relative d) s

/-- BVS, branch if V = 1 (R148). -/
def meanBvs (f : Form) (s : State) : Result :=
  branchIf (fun p => getFlag .v p) f s

/-- BVS relative, opcode 70 (R148, R70). -/
def execBvs (d : Byte) (s : State) : Result := meanBvs (.relative d) s

/-- JMP, `PC <- a`; the address is not dereferenced (R149). -/
def meanJmp (f : Form) (s : State) : Result :=
  withTarget f jumpTo s

/-- JMP absolute, opcode 4C (R149, R71). -/
def execJmpAbs (a : Addr) (s : State) : Result := meanJmp (.absolute a) s
/-- JMP indirect, opcode 6C (R149, R74). -/
def execJmpInd (p : Addr) (s : State) : Result := meanJmp (.indirect p) s

/-- JSR, `Push16(PC - 1)`, the address of the last byte of the instruction, then `PC <- a` (R150). -/
def meanJsr (f : Form) (s : State) : Result :=
  withTarget f (fun op t => jumpTo op (push16 (t.pc - 1) t)) s

/-- JSR absolute, opcode 20 (R150, R71). -/
def execJsr (a : Addr) (s : State) : Result := meanJsr (.absolute a) s

/-- RTS, `PC <- Pull16() + 1` (R151). -/
def meanRts (f : Form) (s : State) : Result :=
  withOperand f (fun _ t =>
    match pull16 t with
    | none => none
    | some (w, u) => some (u.setPc (w + 1))) s

/-- RTS implied, opcode 60 (R151, R64). -/
def execRts (s : State) : Result := meanRts .implied s

end Sys2Proof.Machine
end

