-- ==== Sys2Proof/Machine/LoadStore.lean ====
section
/-! DEFINITION. Loads, stores and register transfers (spec/41_load_store_transfer.md R90 to R101).
One meaning per mnemonic over its addressing mode, then one definition per opcode. -/

namespace Sys2Proof.Machine

/-- LDA, load accumulator: `A <- Load(op); SetZN(A)` (R90). -/
def meanLda (f : Form) (s : State) : Result :=
  withValue f (fun v t => updateZN v (t.setA v)) s

/-- LDA indirectX, opcode A1 (R90, R75). -/
def execLdaIndx (z : Byte) (s : State) : Result := meanLda (.indirectX z) s
/-- LDA zeroPage, opcode A5 (R90, R67). -/
def execLdaZp (z : Byte) (s : State) : Result := meanLda (.zeroPage z) s
/-- LDA immediate, opcode A9 (R90, R66). -/
def execLdaImm (v : Byte) (s : State) : Result := meanLda (.immediate v) s
/-- LDA absolute, opcode AD (R90, R71). -/
def execLdaAbs (a : Addr) (s : State) : Result := meanLda (.absolute a) s
/-- LDA indirectY, opcode B1 (R90, R76). -/
def execLdaIndy (z : Byte) (s : State) : Result := meanLda (.indirectY z) s
/-- LDA zeroPageX, opcode B5 (R90, R68). -/
def execLdaZpx (z : Byte) (s : State) : Result := meanLda (.zeroPageX z) s
/-- LDA absoluteY, opcode B9 (R90, R73). -/
def execLdaAbsy (a : Addr) (s : State) : Result := meanLda (.absoluteY a) s
/-- LDA absoluteX, opcode BD (R90, R72). -/
def execLdaAbsx (a : Addr) (s : State) : Result := meanLda (.absoluteX a) s

/-- LDX, load X: `X <- Load(op); SetZN(X)` (R91). -/
def meanLdx (f : Form) (s : State) : Result :=
  withValue f (fun v t => updateZN v (t.setX v)) s

/-- LDX immediate, opcode A2 (R91, R66). -/
def execLdxImm (v : Byte) (s : State) : Result := meanLdx (.immediate v) s
/-- LDX zeroPage, opcode A6 (R91, R67). -/
def execLdxZp (z : Byte) (s : State) : Result := meanLdx (.zeroPage z) s
/-- LDX absolute, opcode AE (R91, R71). -/
def execLdxAbs (a : Addr) (s : State) : Result := meanLdx (.absolute a) s
/-- LDX zeroPageY, opcode B6 (R91, R69). -/
def execLdxZpy (z : Byte) (s : State) : Result := meanLdx (.zeroPageY z) s
/-- LDX absoluteY, opcode BE (R91, R73). -/
def execLdxAbsy (a : Addr) (s : State) : Result := meanLdx (.absoluteY a) s

/-- LDY, load Y: `Y <- Load(op); SetZN(Y)` (R92). -/
def meanLdy (f : Form) (s : State) : Result :=
  withValue f (fun v t => updateZN v (t.setY v)) s

/-- LDY immediate, opcode A0 (R92, R66). -/
def execLdyImm (v : Byte) (s : State) : Result := meanLdy (.immediate v) s
/-- LDY zeroPage, opcode A4 (R92, R67). -/
def execLdyZp (z : Byte) (s : State) : Result := meanLdy (.zeroPage z) s
/-- LDY absolute, opcode AC (R92, R71). -/
def execLdyAbs (a : Addr) (s : State) : Result := meanLdy (.absolute a) s
/-- LDY zeroPageX, opcode B4 (R92, R68). -/
def execLdyZpx (z : Byte) (s : State) : Result := meanLdy (.zeroPageX z) s
/-- LDY absoluteX, opcode BC (R92, R72). -/
def execLdyAbsx (a : Addr) (s : State) : Result := meanLdy (.absoluteX a) s

/-- STA, store accumulator: `Store(op, A)`, no flag (R93). -/
def meanSta (f : Form) (s : State) : Result :=
  withTarget f (fun op t => store op t.a t) s

/-- STA indirectX, opcode 81 (R93, R75). -/
def execStaIndx (z : Byte) (s : State) : Result := meanSta (.indirectX z) s
/-- STA zeroPage, opcode 85 (R93, R67). -/
def execStaZp (z : Byte) (s : State) : Result := meanSta (.zeroPage z) s
/-- STA absolute, opcode 8D (R93, R71). -/
def execStaAbs (a : Addr) (s : State) : Result := meanSta (.absolute a) s
/-- STA indirectY, opcode 91 (R93, R76). -/
def execStaIndy (z : Byte) (s : State) : Result := meanSta (.indirectY z) s
/-- STA zeroPageX, opcode 95 (R93, R68). -/
def execStaZpx (z : Byte) (s : State) : Result := meanSta (.zeroPageX z) s
/-- STA absoluteY, opcode 99 (R93, R73). -/
def execStaAbsy (a : Addr) (s : State) : Result := meanSta (.absoluteY a) s
/-- STA absoluteX, opcode 9D (R93, R72). -/
def execStaAbsx (a : Addr) (s : State) : Result := meanSta (.absoluteX a) s

/-- STX, store X, no flag (R94). -/
def meanStx (f : Form) (s : State) : Result :=
  withTarget f (fun op t => store op t.x t) s

/-- STX zeroPage, opcode 86 (R94, R67). -/
def execStxZp (z : Byte) (s : State) : Result := meanStx (.zeroPage z) s
/-- STX absolute, opcode 8E (R94, R71). -/
def execStxAbs (a : Addr) (s : State) : Result := meanStx (.absolute a) s
/-- STX zeroPageY, opcode 96 (R94, R69). -/
def execStxZpy (z : Byte) (s : State) : Result := meanStx (.zeroPageY z) s

/-- STY, store Y, no flag (R95). -/
def meanSty (f : Form) (s : State) : Result :=
  withTarget f (fun op t => store op t.y t) s

/-- STY zeroPage, opcode 84 (R95, R67). -/
def execStyZp (z : Byte) (s : State) : Result := meanSty (.zeroPage z) s
/-- STY absolute, opcode 8C (R95, R71). -/
def execStyAbs (a : Addr) (s : State) : Result := meanSty (.absolute a) s
/-- STY zeroPageX, opcode 94 (R95, R68). -/
def execStyZpx (z : Byte) (s : State) : Result := meanSty (.zeroPageX z) s

/-- TAX, `X <- A; SetZN(X)` (R96). -/
def meanTax (f : Form) (s : State) : Result :=
  withTarget f (fun _ t => updateZN t.a (t.setX t.a)) s

/-- TAX implied, opcode AA (R96, R64). -/
def execTax (s : State) : Result := meanTax .implied s

/-- TAY, `Y <- A; SetZN(Y)` (R97). -/
def meanTay (f : Form) (s : State) : Result :=
  withTarget f (fun _ t => updateZN t.a (t.setY t.a)) s

/-- TAY implied, opcode A8 (R97, R64). -/
def execTay (s : State) : Result := meanTay .implied s

/-- TXA, `A <- X; SetZN(A)` (R98). -/
def meanTxa (f : Form) (s : State) : Result :=
  withTarget f (fun _ t => updateZN t.x (t.setA t.x)) s

/-- TXA implied, opcode 8A (R98, R64). -/
def execTxa (s : State) : Result := meanTxa .implied s

/-- TYA, `A <- Y; SetZN(A)` (R99). -/
def meanTya (f : Form) (s : State) : Result :=
  withTarget f (fun _ t => updateZN t.y (t.setA t.y)) s

/-- TYA implied, opcode 98 (R99, R64). -/
def execTya (s : State) : Result := meanTya .implied s

/-- TSX, `X <- S; SetZN(X)` (R100). -/
def meanTsx (f : Form) (s : State) : Result :=
  withTarget f (fun _ t => updateZN t.s (t.setX t.s)) s

/-- TSX implied, opcode BA (R100, R64). -/
def execTsx (s : State) : Result := meanTsx .implied s

/-- TXS, `S <- X`, no flag (R101). -/
def meanTxs (f : Form) (s : State) : Result :=
  withTarget f (fun _ t => t.setS t.x) s

/-- TXS implied, opcode 9A (R101, R64). -/
def execTxs (s : State) : Result := meanTxs .implied s

end Sys2Proof.Machine
end

