-- ==== Sys2Proof/Machine/Logic.lean ====
section
/-! DEFINITION. Logic, bit test, shifts and rotates (spec/43_logic_shift.md R130 to R137).
One meaning per mnemonic over its addressing mode, then one definition per opcode. -/

namespace Sys2Proof.Machine

/-- AND, `A <- A & Load(op); SetZN(A)` (R130). -/
def meanAnd (f : Form) (s : State) : Result :=
  withValue f (fun m t => updateZN (t.a &&& m) (t.setA (t.a &&& m))) s

/-- AND indirectX, opcode 21 (R130, R75). -/
def execAndIndx (z : Byte) (s : State) : Result := meanAnd (.indirectX z) s
/-- AND zeroPage, opcode 25 (R130, R67). -/
def execAndZp (z : Byte) (s : State) : Result := meanAnd (.zeroPage z) s
/-- AND immediate, opcode 29 (R130, R66). -/
def execAndImm (v : Byte) (s : State) : Result := meanAnd (.immediate v) s
/-- AND absolute, opcode 2D (R130, R71). -/
def execAndAbs (a : Addr) (s : State) : Result := meanAnd (.absolute a) s
/-- AND indirectY, opcode 31 (R130, R76). -/
def execAndIndy (z : Byte) (s : State) : Result := meanAnd (.indirectY z) s
/-- AND zeroPageX, opcode 35 (R130, R68). -/
def execAndZpx (z : Byte) (s : State) : Result := meanAnd (.zeroPageX z) s
/-- AND absoluteY, opcode 39 (R130, R73). -/
def execAndAbsy (a : Addr) (s : State) : Result := meanAnd (.absoluteY a) s
/-- AND absoluteX, opcode 3D (R130, R72). -/
def execAndAbsx (a : Addr) (s : State) : Result := meanAnd (.absoluteX a) s

/-- ORA, `A <- A | Load(op); SetZN(A)` (R131). -/
def meanOra (f : Form) (s : State) : Result :=
  withValue f (fun m t => updateZN (t.a ||| m) (t.setA (t.a ||| m))) s

/-- ORA indirectX, opcode 01 (R131, R75). -/
def execOraIndx (z : Byte) (s : State) : Result := meanOra (.indirectX z) s
/-- ORA zeroPage, opcode 05 (R131, R67). -/
def execOraZp (z : Byte) (s : State) : Result := meanOra (.zeroPage z) s
/-- ORA immediate, opcode 09 (R131, R66). -/
def execOraImm (v : Byte) (s : State) : Result := meanOra (.immediate v) s
/-- ORA absolute, opcode 0D (R131, R71). -/
def execOraAbs (a : Addr) (s : State) : Result := meanOra (.absolute a) s
/-- ORA indirectY, opcode 11 (R131, R76). -/
def execOraIndy (z : Byte) (s : State) : Result := meanOra (.indirectY z) s
/-- ORA zeroPageX, opcode 15 (R131, R68). -/
def execOraZpx (z : Byte) (s : State) : Result := meanOra (.zeroPageX z) s
/-- ORA absoluteY, opcode 19 (R131, R73). -/
def execOraAbsy (a : Addr) (s : State) : Result := meanOra (.absoluteY a) s
/-- ORA absoluteX, opcode 1D (R131, R72). -/
def execOraAbsx (a : Addr) (s : State) : Result := meanOra (.absoluteX a) s

/-- EOR, `A <- A ^ Load(op); SetZN(A)` (R132). -/
def meanEor (f : Form) (s : State) : Result :=
  withValue f (fun m t => updateZN (t.a ^^^ m) (t.setA (t.a ^^^ m))) s

/-- EOR indirectX, opcode 41 (R132, R75). -/
def execEorIndx (z : Byte) (s : State) : Result := meanEor (.indirectX z) s
/-- EOR zeroPage, opcode 45 (R132, R67). -/
def execEorZp (z : Byte) (s : State) : Result := meanEor (.zeroPage z) s
/-- EOR immediate, opcode 49 (R132, R66). -/
def execEorImm (v : Byte) (s : State) : Result := meanEor (.immediate v) s
/-- EOR absolute, opcode 4D (R132, R71). -/
def execEorAbs (a : Addr) (s : State) : Result := meanEor (.absolute a) s
/-- EOR indirectY, opcode 51 (R132, R76). -/
def execEorIndy (z : Byte) (s : State) : Result := meanEor (.indirectY z) s
/-- EOR zeroPageX, opcode 55 (R132, R68). -/
def execEorZpx (z : Byte) (s : State) : Result := meanEor (.zeroPageX z) s
/-- EOR absoluteY, opcode 59 (R132, R73). -/
def execEorAbsy (a : Addr) (s : State) : Result := meanEor (.absoluteY a) s
/-- EOR absoluteX, opcode 5D (R132, R72). -/
def execEorAbsx (a : Addr) (s : State) : Result := meanEor (.absoluteX a) s

/-- BIT, bit test: Z from `A & m`, N and V from `m`; `A` kept (R133). -/
def meanBit (f : Form) (s : State) : Result :=
  withValue f (fun m t => t.setP (bitFlags t.a m t.p)) s

/-- BIT zeroPage, opcode 24 (R133, R67). -/
def execBitZp (z : Byte) (s : State) : Result := meanBit (.zeroPage z) s
/-- BIT absolute, opcode 2C (R133, R71). -/
def execBitAbs (a : Addr) (s : State) : Result := meanBit (.absolute a) s

/-- ASL, arithmetic shift left (R134). -/
def meanAsl (f : Form) (s : State) : Result :=
  shiftOperand f shiftLeft s

/-- ASL zeroPage, opcode 06 (R134, R67). -/
def execAslZp (z : Byte) (s : State) : Result := meanAsl (.zeroPage z) s
/-- ASL accumulator, opcode 0A (R134, R65). -/
def execAslAcc (s : State) : Result := meanAsl .accumulator s
/-- ASL absolute, opcode 0E (R134, R71). -/
def execAslAbs (a : Addr) (s : State) : Result := meanAsl (.absolute a) s
/-- ASL zeroPageX, opcode 16 (R134, R68). -/
def execAslZpx (z : Byte) (s : State) : Result := meanAsl (.zeroPageX z) s
/-- ASL absoluteX, opcode 1E (R134, R72). -/
def execAslAbsx (a : Addr) (s : State) : Result := meanAsl (.absoluteX a) s

/-- LSR, logical shift right (R135). -/
def meanLsr (f : Form) (s : State) : Result :=
  shiftOperand f shiftRight s

/-- LSR zeroPage, opcode 46 (R135, R67). -/
def execLsrZp (z : Byte) (s : State) : Result := meanLsr (.zeroPage z) s
/-- LSR accumulator, opcode 4A (R135, R65). -/
def execLsrAcc (s : State) : Result := meanLsr .accumulator s
/-- LSR absolute, opcode 4E (R135, R71). -/
def execLsrAbs (a : Addr) (s : State) : Result := meanLsr (.absolute a) s
/-- LSR zeroPageX, opcode 56 (R135, R68). -/
def execLsrZpx (z : Byte) (s : State) : Result := meanLsr (.zeroPageX z) s
/-- LSR absoluteX, opcode 5E (R135, R72). -/
def execLsrAbsx (a : Addr) (s : State) : Result := meanLsr (.absoluteX a) s

/-- ROL, rotate left through carry (R136). -/
def meanRol (f : Form) (s : State) : Result :=
  shiftOperand f rotateLeft s

/-- ROL zeroPage, opcode 26 (R136, R67). -/
def execRolZp (z : Byte) (s : State) : Result := meanRol (.zeroPage z) s
/-- ROL accumulator, opcode 2A (R136, R65). -/
def execRolAcc (s : State) : Result := meanRol .accumulator s
/-- ROL absolute, opcode 2E (R136, R71). -/
def execRolAbs (a : Addr) (s : State) : Result := meanRol (.absolute a) s
/-- ROL zeroPageX, opcode 36 (R136, R68). -/
def execRolZpx (z : Byte) (s : State) : Result := meanRol (.zeroPageX z) s
/-- ROL absoluteX, opcode 3E (R136, R72). -/
def execRolAbsx (a : Addr) (s : State) : Result := meanRol (.absoluteX a) s

/-- ROR, rotate right through carry (R137). -/
def meanRor (f : Form) (s : State) : Result :=
  shiftOperand f rotateRight s

/-- ROR zeroPage, opcode 66 (R137, R67). -/
def execRorZp (z : Byte) (s : State) : Result := meanRor (.zeroPage z) s
/-- ROR accumulator, opcode 6A (R137, R65). -/
def execRorAcc (s : State) : Result := meanRor .accumulator s
/-- ROR absolute, opcode 6E (R137, R71). -/
def execRorAbs (a : Addr) (s : State) : Result := meanRor (.absolute a) s
/-- ROR zeroPageX, opcode 76 (R137, R68). -/
def execRorZpx (z : Byte) (s : State) : Result := meanRor (.zeroPageX z) s
/-- ROR absoluteX, opcode 7E (R137, R72). -/
def execRorAbsx (a : Addr) (s : State) : Result := meanRor (.absoluteX a) s

end Sys2Proof.Machine
end

