-- ==== Sys2Proof/Machine/System.lean ====
section
/-! DEFINITION. Stack and flag instructions, BRK, RTI and NOP (spec/45_stack_flags_system.md R160 to R173).
One meaning per mnemonic over its addressing mode, then one definition per opcode. -/

namespace Sys2Proof.Machine

/-- PHA, `Push8(A)`, no flag (R160). -/
def meanPha (f : Form) (s : State) : Result :=
  withTarget f (fun _ t => push8 t.a t) s

/-- PHA implied, opcode 48 (R160, R64). -/
def execPha (s : State) : Result := meanPha .implied s

/-- PHP, `Push8(P | 0x30)`; `P` kept (R161). -/
def meanPhp (f : Form) (s : State) : Result :=
  withTarget f (fun _ t => push8 (pushedStatus t.p) t) s

/-- PHP implied, opcode 08 (R161, R64). -/
def execPhp (s : State) : Result := meanPhp .implied s

/-- PLA, `A <- Pull8(); SetZN(A)` (R162). -/
def meanPla (f : Form) (s : State) : Result :=
  withOperand f (fun _ t =>
    match pull8 t with
    | none => none
    | some (v, u) => some (updateZN v (u.setA v))) s

/-- PLA implied, opcode 68 (R162, R64). -/
def execPla (s : State) : Result := meanPla .implied s

/-- PLP, `P <- (Pull8() | 0x20) & 0xEF` (R163). -/
def meanPlp (f : Form) (s : State) : Result :=
  withOperand f (fun _ t =>
    match pull8 t with
    | none => none
    | some (v, u) => some (u.setP (pulledStatus v))) s

/-- PLP implied, opcode 28 (R163, R64). -/
def execPlp (s : State) : Result := meanPlp .implied s

/-- CLC, `SetFlag(0, 0)` (R164). -/
def meanClc (f : Form) (s : State) : Result :=
  withTarget f (fun _ t => writeFlag .c false t) s

/-- CLC implied, opcode 18 (R164, R64). -/
def execClc (s : State) : Result := meanClc .implied s

/-- SEC, `SetFlag(0, 1)` (R165). -/
def meanSec (f : Form) (s : State) : Result :=
  withTarget f (fun _ t => writeFlag .c true t) s

/-- SEC implied, opcode 38 (R165, R64). -/
def execSec (s : State) : Result := meanSec .implied s

/-- CLI, `SetFlag(2, 0)` (R166). -/
def meanCli (f : Form) (s : State) : Result :=
  withTarget f (fun _ t => writeFlag .i false t) s

/-- CLI implied, opcode 58 (R166, R64). -/
def execCli (s : State) : Result := meanCli .implied s

/-- SEI, `SetFlag(2, 1)` (R167). -/
def meanSei (f : Form) (s : State) : Result :=
  withTarget f (fun _ t => writeFlag .i true t) s

/-- SEI implied, opcode 78 (R167, R64). -/
def execSei (s : State) : Result := meanSei .implied s

/-- CLV, `SetFlag(6, 0)` (R168). -/
def meanClv (f : Form) (s : State) : Result :=
  withTarget f (fun _ t => writeFlag .v false t) s

/-- CLV implied, opcode B8 (R168, R64). -/
def execClv (s : State) : Result := meanClv .implied s

/-- CLD, `SetFlag(3, 0)` (R169). -/
def meanCld (f : Form) (s : State) : Result :=
  withTarget f (fun _ t => writeFlag .d false t) s

/-- CLD implied, opcode D8 (R169, R64). -/
def execCld (s : State) : Result := meanCld .implied s

/-- SED, `SetFlag(3, 1)` (R170). -/
def meanSed (f : Form) (s : State) : Result :=
  withTarget f (fun _ t => writeFlag .d true t) s

/-- SED implied, opcode F8 (R170, R64). -/
def execSed (s : State) : Result := meanSed .implied s

/-- BRK, software break: the trap, taken with `PC = pc0 + 1` (R171). -/
def meanBrk (f : Form) (s : State) : Result :=
  withOperand f (fun _ t => takeBreak t) s

/-- BRK implied, opcode 00 (R171, R64). -/
def execBrk (s : State) : Result := meanBrk .implied s

/-- RTI, return from the trap (R172). -/
def meanRti (f : Form) (s : State) : Result :=
  withOperand f (fun _ t => returnFromBreak t) s

/-- RTI implied, opcode 40 (R172, R64). -/
def execRti (s : State) : Result := meanRti .implied s

/-- NOP, no operation: only the advance of `PC`. With `HALT_ON_NOP` the step halts at the fetch
and this meaning does not run (40_step_and_addressing.md R61) (R173). -/
def meanNop (f : Form) (s : State) : Result :=
  withTarget f (fun _ t => t) s

/-- NOP implied, opcode EA (R173, R64). -/
def execNop (s : State) : Result := meanNop .implied s

end Sys2Proof.Machine
end

