-- ==== Sys2Proof/Machine/Dispatch.lean ====
section
/-! DEFINITION. `Execute(mnemonic, op)` (spec/40_step_and_addressing.md R60): one arm per opcode. -/

namespace Sys2Proof.Machine

/-- The meaning of one instruction, on the state in which `PC` is the address of its opcode byte and
its bytes have been read from the bus. -/
def exec (i : Instr) (s : State) : Host.Outcome State Fault Refusal :=
  match i with
  | .brk => Sys2Proof.Machine.execBrk s
  | .oraIndx z => Sys2Proof.Machine.execOraIndx z s
  | .oraZp z => Sys2Proof.Machine.execOraZp z s
  | .aslZp z => Sys2Proof.Machine.execAslZp z s
  | .php => Sys2Proof.Machine.execPhp s
  | .oraImm v => Sys2Proof.Machine.execOraImm v s
  | .aslAcc => Sys2Proof.Machine.execAslAcc s
  | .oraAbs a => Sys2Proof.Machine.execOraAbs a s
  | .aslAbs a => Sys2Proof.Machine.execAslAbs a s
  | .bpl d => Sys2Proof.Machine.execBpl d s
  | .oraIndy z => Sys2Proof.Machine.execOraIndy z s
  | .oraZpx z => Sys2Proof.Machine.execOraZpx z s
  | .aslZpx z => Sys2Proof.Machine.execAslZpx z s
  | .clc => Sys2Proof.Machine.execClc s
  | .oraAbsy a => Sys2Proof.Machine.execOraAbsy a s
  | .oraAbsx a => Sys2Proof.Machine.execOraAbsx a s
  | .aslAbsx a => Sys2Proof.Machine.execAslAbsx a s
  | .jsr a => Sys2Proof.Machine.execJsr a s
  | .andIndx z => Sys2Proof.Machine.execAndIndx z s
  | .bitZp z => Sys2Proof.Machine.execBitZp z s
  | .andZp z => Sys2Proof.Machine.execAndZp z s
  | .rolZp z => Sys2Proof.Machine.execRolZp z s
  | .plp => Sys2Proof.Machine.execPlp s
  | .andImm v => Sys2Proof.Machine.execAndImm v s
  | .rolAcc => Sys2Proof.Machine.execRolAcc s
  | .bitAbs a => Sys2Proof.Machine.execBitAbs a s
  | .andAbs a => Sys2Proof.Machine.execAndAbs a s
  | .rolAbs a => Sys2Proof.Machine.execRolAbs a s
  | .bmi d => Sys2Proof.Machine.execBmi d s
  | .andIndy z => Sys2Proof.Machine.execAndIndy z s
  | .andZpx z => Sys2Proof.Machine.execAndZpx z s
  | .rolZpx z => Sys2Proof.Machine.execRolZpx z s
  | .sec => Sys2Proof.Machine.execSec s
  | .andAbsy a => Sys2Proof.Machine.execAndAbsy a s
  | .andAbsx a => Sys2Proof.Machine.execAndAbsx a s
  | .rolAbsx a => Sys2Proof.Machine.execRolAbsx a s
  | .rti => Sys2Proof.Machine.execRti s
  | .eorIndx z => Sys2Proof.Machine.execEorIndx z s
  | .eorZp z => Sys2Proof.Machine.execEorZp z s
  | .lsrZp z => Sys2Proof.Machine.execLsrZp z s
  | .pha => Sys2Proof.Machine.execPha s
  | .eorImm v => Sys2Proof.Machine.execEorImm v s
  | .lsrAcc => Sys2Proof.Machine.execLsrAcc s
  | .jmpAbs a => Sys2Proof.Machine.execJmpAbs a s
  | .eorAbs a => Sys2Proof.Machine.execEorAbs a s
  | .lsrAbs a => Sys2Proof.Machine.execLsrAbs a s
  | .bvc d => Sys2Proof.Machine.execBvc d s
  | .eorIndy z => Sys2Proof.Machine.execEorIndy z s
  | .eorZpx z => Sys2Proof.Machine.execEorZpx z s
  | .lsrZpx z => Sys2Proof.Machine.execLsrZpx z s
  | .cli => Sys2Proof.Machine.execCli s
  | .eorAbsy a => Sys2Proof.Machine.execEorAbsy a s
  | .eorAbsx a => Sys2Proof.Machine.execEorAbsx a s
  | .lsrAbsx a => Sys2Proof.Machine.execLsrAbsx a s
  | .rts => Sys2Proof.Machine.execRts s
  | .adcIndx z => Sys2Proof.Machine.execAdcIndx z s
  | .adcZp z => Sys2Proof.Machine.execAdcZp z s
  | .rorZp z => Sys2Proof.Machine.execRorZp z s
  | .pla => Sys2Proof.Machine.execPla s
  | .adcImm v => Sys2Proof.Machine.execAdcImm v s
  | .rorAcc => Sys2Proof.Machine.execRorAcc s
  | .jmpInd p => Sys2Proof.Machine.execJmpInd p s
  | .adcAbs a => Sys2Proof.Machine.execAdcAbs a s
  | .rorAbs a => Sys2Proof.Machine.execRorAbs a s
  | .bvs d => Sys2Proof.Machine.execBvs d s
  | .adcIndy z => Sys2Proof.Machine.execAdcIndy z s
  | .adcZpx z => Sys2Proof.Machine.execAdcZpx z s
  | .rorZpx z => Sys2Proof.Machine.execRorZpx z s
  | .sei => Sys2Proof.Machine.execSei s
  | .adcAbsy a => Sys2Proof.Machine.execAdcAbsy a s
  | .adcAbsx a => Sys2Proof.Machine.execAdcAbsx a s
  | .rorAbsx a => Sys2Proof.Machine.execRorAbsx a s
  | .staIndx z => Sys2Proof.Machine.execStaIndx z s
  | .styZp z => Sys2Proof.Machine.execStyZp z s
  | .staZp z => Sys2Proof.Machine.execStaZp z s
  | .stxZp z => Sys2Proof.Machine.execStxZp z s
  | .dey => Sys2Proof.Machine.execDey s
  | .txa => Sys2Proof.Machine.execTxa s
  | .styAbs a => Sys2Proof.Machine.execStyAbs a s
  | .staAbs a => Sys2Proof.Machine.execStaAbs a s
  | .stxAbs a => Sys2Proof.Machine.execStxAbs a s
  | .bcc d => Sys2Proof.Machine.execBcc d s
  | .staIndy z => Sys2Proof.Machine.execStaIndy z s
  | .styZpx z => Sys2Proof.Machine.execStyZpx z s
  | .staZpx z => Sys2Proof.Machine.execStaZpx z s
  | .stxZpy z => Sys2Proof.Machine.execStxZpy z s
  | .tya => Sys2Proof.Machine.execTya s
  | .staAbsy a => Sys2Proof.Machine.execStaAbsy a s
  | .txs => Sys2Proof.Machine.execTxs s
  | .staAbsx a => Sys2Proof.Machine.execStaAbsx a s
  | .ldyImm v => Sys2Proof.Machine.execLdyImm v s
  | .ldaIndx z => Sys2Proof.Machine.execLdaIndx z s
  | .ldxImm v => Sys2Proof.Machine.execLdxImm v s
  | .ldyZp z => Sys2Proof.Machine.execLdyZp z s
  | .ldaZp z => Sys2Proof.Machine.execLdaZp z s
  | .ldxZp z => Sys2Proof.Machine.execLdxZp z s
  | .tay => Sys2Proof.Machine.execTay s
  | .ldaImm v => Sys2Proof.Machine.execLdaImm v s
  | .tax => Sys2Proof.Machine.execTax s
  | .ldyAbs a => Sys2Proof.Machine.execLdyAbs a s
  | .ldaAbs a => Sys2Proof.Machine.execLdaAbs a s
  | .ldxAbs a => Sys2Proof.Machine.execLdxAbs a s
  | .bcs d => Sys2Proof.Machine.execBcs d s
  | .ldaIndy z => Sys2Proof.Machine.execLdaIndy z s
  | .ldyZpx z => Sys2Proof.Machine.execLdyZpx z s
  | .ldaZpx z => Sys2Proof.Machine.execLdaZpx z s
  | .ldxZpy z => Sys2Proof.Machine.execLdxZpy z s
  | .clv => Sys2Proof.Machine.execClv s
  | .ldaAbsy a => Sys2Proof.Machine.execLdaAbsy a s
  | .tsx => Sys2Proof.Machine.execTsx s
  | .ldyAbsx a => Sys2Proof.Machine.execLdyAbsx a s
  | .ldaAbsx a => Sys2Proof.Machine.execLdaAbsx a s
  | .ldxAbsy a => Sys2Proof.Machine.execLdxAbsy a s
  | .cpyImm v => Sys2Proof.Machine.execCpyImm v s
  | .cmpIndx z => Sys2Proof.Machine.execCmpIndx z s
  | .cpyZp z => Sys2Proof.Machine.execCpyZp z s
  | .cmpZp z => Sys2Proof.Machine.execCmpZp z s
  | .decZp z => Sys2Proof.Machine.execDecZp z s
  | .iny => Sys2Proof.Machine.execIny s
  | .cmpImm v => Sys2Proof.Machine.execCmpImm v s
  | .dex => Sys2Proof.Machine.execDex s
  | .cpyAbs a => Sys2Proof.Machine.execCpyAbs a s
  | .cmpAbs a => Sys2Proof.Machine.execCmpAbs a s
  | .decAbs a => Sys2Proof.Machine.execDecAbs a s
  | .bne d => Sys2Proof.Machine.execBne d s
  | .cmpIndy z => Sys2Proof.Machine.execCmpIndy z s
  | .cmpZpx z => Sys2Proof.Machine.execCmpZpx z s
  | .decZpx z => Sys2Proof.Machine.execDecZpx z s
  | .cld => Sys2Proof.Machine.execCld s
  | .cmpAbsy a => Sys2Proof.Machine.execCmpAbsy a s
  | .cmpAbsx a => Sys2Proof.Machine.execCmpAbsx a s
  | .decAbsx a => Sys2Proof.Machine.execDecAbsx a s
  | .cpxImm v => Sys2Proof.Machine.execCpxImm v s
  | .sbcIndx z => Sys2Proof.Machine.execSbcIndx z s
  | .cpxZp z => Sys2Proof.Machine.execCpxZp z s
  | .sbcZp z => Sys2Proof.Machine.execSbcZp z s
  | .incZp z => Sys2Proof.Machine.execIncZp z s
  | .inx => Sys2Proof.Machine.execInx s
  | .sbcImm v => Sys2Proof.Machine.execSbcImm v s
  | .nop => Sys2Proof.Machine.execNop s
  | .cpxAbs a => Sys2Proof.Machine.execCpxAbs a s
  | .sbcAbs a => Sys2Proof.Machine.execSbcAbs a s
  | .incAbs a => Sys2Proof.Machine.execIncAbs a s
  | .beq d => Sys2Proof.Machine.execBeq d s
  | .sbcIndy z => Sys2Proof.Machine.execSbcIndy z s
  | .sbcZpx z => Sys2Proof.Machine.execSbcZpx z s
  | .incZpx z => Sys2Proof.Machine.execIncZpx z s
  | .sed => Sys2Proof.Machine.execSed s
  | .sbcAbsy a => Sys2Proof.Machine.execSbcAbsy a s
  | .sbcAbsx a => Sys2Proof.Machine.execSbcAbsx a s
  | .incAbsx a => Sys2Proof.Machine.execIncAbsx a s

end Sys2Proof.Machine
end

