-- ==== Sys2Proof/WellFormed.lean ====
section
/-! DEFINITION. What a well-formed term is: a mnemonic in an addressing mode the by-mnemonic table of
spec/30_encoding.md R53 gives it, and a program image that fits program storage (20_memory.md R47).
No operand VALUE is ill-formed: every value is legal in every instruction (30_encoding.md R55), and
the operand types have exactly those values. -/

namespace Sys2Proof

/-- The addressing modes of a mnemonic, from the by-mnemonic table (30_encoding.md R53). -/
def Mnemonic.modes : Mnemonic → List Mode
  | .adc => [.immediate, .zeroPage, .zeroPageX, .absolute, .absoluteX, .absoluteY, .indirectX, .indirectY]
  | .and => [.immediate, .zeroPage, .zeroPageX, .absolute, .absoluteX, .absoluteY, .indirectX, .indirectY]
  | .asl => [.accumulator, .zeroPage, .zeroPageX, .absolute, .absoluteX]
  | .bcc => [.relative]
  | .bcs => [.relative]
  | .beq => [.relative]
  | .bit => [.zeroPage, .absolute]
  | .bmi => [.relative]
  | .bne => [.relative]
  | .bpl => [.relative]
  | .brk => [.implied]
  | .bvc => [.relative]
  | .bvs => [.relative]
  | .clc => [.implied]
  | .cld => [.implied]
  | .cli => [.implied]
  | .clv => [.implied]
  | .cmp => [.immediate, .zeroPage, .zeroPageX, .absolute, .absoluteX, .absoluteY, .indirectX, .indirectY]
  | .cpx => [.immediate, .zeroPage, .absolute]
  | .cpy => [.immediate, .zeroPage, .absolute]
  | .dec => [.zeroPage, .zeroPageX, .absolute, .absoluteX]
  | .dex => [.implied]
  | .dey => [.implied]
  | .eor => [.immediate, .zeroPage, .zeroPageX, .absolute, .absoluteX, .absoluteY, .indirectX, .indirectY]
  | .inc => [.zeroPage, .zeroPageX, .absolute, .absoluteX]
  | .inx => [.implied]
  | .iny => [.implied]
  | .jmp => [.absolute, .indirect]
  | .jsr => [.absolute]
  | .lda => [.immediate, .zeroPage, .zeroPageX, .absolute, .absoluteX, .absoluteY, .indirectX, .indirectY]
  | .ldx => [.immediate, .zeroPage, .zeroPageY, .absolute, .absoluteY]
  | .ldy => [.immediate, .zeroPage, .zeroPageX, .absolute, .absoluteX]
  | .lsr => [.accumulator, .zeroPage, .zeroPageX, .absolute, .absoluteX]
  | .nop => [.implied]
  | .ora => [.immediate, .zeroPage, .zeroPageX, .absolute, .absoluteX, .absoluteY, .indirectX, .indirectY]
  | .pha => [.implied]
  | .php => [.implied]
  | .pla => [.implied]
  | .plp => [.implied]
  | .rol => [.accumulator, .zeroPage, .zeroPageX, .absolute, .absoluteX]
  | .ror => [.accumulator, .zeroPage, .zeroPageX, .absolute, .absoluteX]
  | .rti => [.implied]
  | .rts => [.implied]
  | .sbc => [.immediate, .zeroPage, .zeroPageX, .absolute, .absoluteX, .absoluteY, .indirectX, .indirectY]
  | .sec => [.implied]
  | .sed => [.implied]
  | .sei => [.implied]
  | .sta => [.zeroPage, .zeroPageX, .absolute, .absoluteX, .absoluteY, .indirectX, .indirectY]
  | .stx => [.zeroPage, .zeroPageY, .absolute]
  | .sty => [.zeroPage, .zeroPageX, .absolute]
  | .tax => [.implied]
  | .tay => [.implied]
  | .tsx => [.implied]
  | .txa => [.implied]
  | .txs => [.implied]
  | .tya => [.implied]

/-- Whether a mnemonic has an opcode in the mode of the form (30_encoding.md R53). -/
def admits (m : Mnemonic) (f : Form) : Bool := m.modes.contains f.mode

/-- A well-formed instruction: its mnemonic has the addressing mode it is written with. -/
def Instr.wf (i : Instr) : Bool := admits i.mnemonic i.form

/-- A program image the hardware accepts: at most `ROM_SIZE` bytes (20_memory.md R47). -/
def imageWf (bytes : List Byte) : Bool := decide (bytes.length ≤ Config.romSize)

end Sys2Proof
end

