-- ==== Sys2Proof/Decode.lean ====
section
/-! DEFINITION. The decoder, total on any bytes, and the encoder (spec/30_encoding.md R50 to R56).
Decoding looks the whole opcode byte up in one table (R52); the table's rows follow the by-opcode
matrix of R53, row by row of the matrix. The encoder is written from the by-mnemonic table. -/

namespace Sys2Proof

open Sys2Proof.Machine (word16 loByte hiByte)

/-- The length of an instruction in bytes, by mode (30_encoding.md R50). -/
def Mode.length : Mode → Nat
  | .implied | .accumulator => 1
  | .immediate | .zeroPage | .zeroPageX | .zeroPageY | .indirectX | .indirectY | .relative => 2
  | .absolute | .absoluteX | .absoluteY | .indirect => 3

/-- A populated slot of the opcode table: what the operand bytes are made into (30_encoding.md R50, R51). -/
inductive Slot where
  | noOperand (i : Instr)
  | byteOperand (mk : Byte → Instr)
  | wordOperand (mk : Addr → Instr)

/-- How many bytes an instruction of the slot has (30_encoding.md R50, R56). -/
def Slot.length : Slot → Nat
  | .noOperand _ => 1
  | .byteOperand _ => 2
  | .wordOperand _ => 3

/-- Row `0x` of the opcode matrix (30_encoding.md R53). -/
def opcodeRow0 : List (Byte × Slot) :=
  [(0x00#8, .noOperand .brk), (0x01#8, .byteOperand .oraIndx), (0x05#8, .byteOperand .oraZp),
   (0x06#8, .byteOperand .aslZp), (0x08#8, .noOperand .php), (0x09#8, .byteOperand .oraImm),
   (0x0A#8, .noOperand .aslAcc), (0x0D#8, .wordOperand .oraAbs), (0x0E#8, .wordOperand .aslAbs)]

/-- Row `1x` of the opcode matrix (30_encoding.md R53). -/
def opcodeRow1 : List (Byte × Slot) :=
  [(0x10#8, .byteOperand .bpl), (0x11#8, .byteOperand .oraIndy), (0x15#8, .byteOperand .oraZpx),
   (0x16#8, .byteOperand .aslZpx), (0x18#8, .noOperand .clc), (0x19#8, .wordOperand .oraAbsy),
   (0x1D#8, .wordOperand .oraAbsx), (0x1E#8, .wordOperand .aslAbsx)]

/-- Row `2x` of the opcode matrix (30_encoding.md R53). -/
def opcodeRow2 : List (Byte × Slot) :=
  [(0x20#8, .wordOperand .jsr), (0x21#8, .byteOperand .andIndx), (0x24#8, .byteOperand .bitZp),
   (0x25#8, .byteOperand .andZp), (0x26#8, .byteOperand .rolZp), (0x28#8, .noOperand .plp),
   (0x29#8, .byteOperand .andImm), (0x2A#8, .noOperand .rolAcc), (0x2C#8, .wordOperand .bitAbs),
   (0x2D#8, .wordOperand .andAbs), (0x2E#8, .wordOperand .rolAbs)]

/-- Row `3x` of the opcode matrix (30_encoding.md R53). -/
def opcodeRow3 : List (Byte × Slot) :=
  [(0x30#8, .byteOperand .bmi), (0x31#8, .byteOperand .andIndy), (0x35#8, .byteOperand .andZpx),
   (0x36#8, .byteOperand .rolZpx), (0x38#8, .noOperand .sec), (0x39#8, .wordOperand .andAbsy),
   (0x3D#8, .wordOperand .andAbsx), (0x3E#8, .wordOperand .rolAbsx)]

/-- Row `4x` of the opcode matrix (30_encoding.md R53). -/
def opcodeRow4 : List (Byte × Slot) :=
  [(0x40#8, .noOperand .rti), (0x41#8, .byteOperand .eorIndx), (0x45#8, .byteOperand .eorZp),
   (0x46#8, .byteOperand .lsrZp), (0x48#8, .noOperand .pha), (0x49#8, .byteOperand .eorImm),
   (0x4A#8, .noOperand .lsrAcc), (0x4C#8, .wordOperand .jmpAbs), (0x4D#8, .wordOperand .eorAbs),
   (0x4E#8, .wordOperand .lsrAbs)]

/-- Row `5x` of the opcode matrix (30_encoding.md R53). -/
def opcodeRow5 : List (Byte × Slot) :=
  [(0x50#8, .byteOperand .bvc), (0x51#8, .byteOperand .eorIndy), (0x55#8, .byteOperand .eorZpx),
   (0x56#8, .byteOperand .lsrZpx), (0x58#8, .noOperand .cli), (0x59#8, .wordOperand .eorAbsy),
   (0x5D#8, .wordOperand .eorAbsx), (0x5E#8, .wordOperand .lsrAbsx)]

/-- Row `6x` of the opcode matrix (30_encoding.md R53). -/
def opcodeRow6 : List (Byte × Slot) :=
  [(0x60#8, .noOperand .rts), (0x61#8, .byteOperand .adcIndx), (0x65#8, .byteOperand .adcZp),
   (0x66#8, .byteOperand .rorZp), (0x68#8, .noOperand .pla), (0x69#8, .byteOperand .adcImm),
   (0x6A#8, .noOperand .rorAcc), (0x6C#8, .wordOperand .jmpInd), (0x6D#8, .wordOperand .adcAbs),
   (0x6E#8, .wordOperand .rorAbs)]

/-- Row `7x` of the opcode matrix (30_encoding.md R53). -/
def opcodeRow7 : List (Byte × Slot) :=
  [(0x70#8, .byteOperand .bvs), (0x71#8, .byteOperand .adcIndy), (0x75#8, .byteOperand .adcZpx),
   (0x76#8, .byteOperand .rorZpx), (0x78#8, .noOperand .sei), (0x79#8, .wordOperand .adcAbsy),
   (0x7D#8, .wordOperand .adcAbsx), (0x7E#8, .wordOperand .rorAbsx)]

/-- Row `8x` of the opcode matrix (30_encoding.md R53). -/
def opcodeRow8 : List (Byte × Slot) :=
  [(0x81#8, .byteOperand .staIndx), (0x84#8, .byteOperand .styZp), (0x85#8, .byteOperand .staZp),
   (0x86#8, .byteOperand .stxZp), (0x88#8, .noOperand .dey), (0x8A#8, .noOperand .txa),
   (0x8C#8, .wordOperand .styAbs), (0x8D#8, .wordOperand .staAbs), (0x8E#8, .wordOperand .stxAbs)]

/-- Row `9x` of the opcode matrix (30_encoding.md R53). -/
def opcodeRow9 : List (Byte × Slot) :=
  [(0x90#8, .byteOperand .bcc), (0x91#8, .byteOperand .staIndy), (0x94#8, .byteOperand .styZpx),
   (0x95#8, .byteOperand .staZpx), (0x96#8, .byteOperand .stxZpy), (0x98#8, .noOperand .tya),
   (0x99#8, .wordOperand .staAbsy), (0x9A#8, .noOperand .txs), (0x9D#8, .wordOperand .staAbsx)]

/-- Row `Ax` of the opcode matrix (30_encoding.md R53). -/
def opcodeRowA : List (Byte × Slot) :=
  [(0xA0#8, .byteOperand .ldyImm), (0xA1#8, .byteOperand .ldaIndx), (0xA2#8, .byteOperand .ldxImm),
   (0xA4#8, .byteOperand .ldyZp), (0xA5#8, .byteOperand .ldaZp), (0xA6#8, .byteOperand .ldxZp),
   (0xA8#8, .noOperand .tay), (0xA9#8, .byteOperand .ldaImm), (0xAA#8, .noOperand .tax),
   (0xAC#8, .wordOperand .ldyAbs), (0xAD#8, .wordOperand .ldaAbs), (0xAE#8, .wordOperand .ldxAbs)]

/-- Row `Bx` of the opcode matrix (30_encoding.md R53). -/
def opcodeRowB : List (Byte × Slot) :=
  [(0xB0#8, .byteOperand .bcs), (0xB1#8, .byteOperand .ldaIndy), (0xB4#8, .byteOperand .ldyZpx),
   (0xB5#8, .byteOperand .ldaZpx), (0xB6#8, .byteOperand .ldxZpy), (0xB8#8, .noOperand .clv),
   (0xB9#8, .wordOperand .ldaAbsy), (0xBA#8, .noOperand .tsx), (0xBC#8, .wordOperand .ldyAbsx),
   (0xBD#8, .wordOperand .ldaAbsx), (0xBE#8, .wordOperand .ldxAbsy)]

/-- Row `Cx` of the opcode matrix (30_encoding.md R53). -/
def opcodeRowC : List (Byte × Slot) :=
  [(0xC0#8, .byteOperand .cpyImm), (0xC1#8, .byteOperand .cmpIndx), (0xC4#8, .byteOperand .cpyZp),
   (0xC5#8, .byteOperand .cmpZp), (0xC6#8, .byteOperand .decZp), (0xC8#8, .noOperand .iny),
   (0xC9#8, .byteOperand .cmpImm), (0xCA#8, .noOperand .dex), (0xCC#8, .wordOperand .cpyAbs),
   (0xCD#8, .wordOperand .cmpAbs), (0xCE#8, .wordOperand .decAbs)]

/-- Row `Dx` of the opcode matrix (30_encoding.md R53). -/
def opcodeRowD : List (Byte × Slot) :=
  [(0xD0#8, .byteOperand .bne), (0xD1#8, .byteOperand .cmpIndy), (0xD5#8, .byteOperand .cmpZpx),
   (0xD6#8, .byteOperand .decZpx), (0xD8#8, .noOperand .cld), (0xD9#8, .wordOperand .cmpAbsy),
   (0xDD#8, .wordOperand .cmpAbsx), (0xDE#8, .wordOperand .decAbsx)]

/-- Row `Ex` of the opcode matrix (30_encoding.md R53). -/
def opcodeRowE : List (Byte × Slot) :=
  [(0xE0#8, .byteOperand .cpxImm), (0xE1#8, .byteOperand .sbcIndx), (0xE4#8, .byteOperand .cpxZp),
   (0xE5#8, .byteOperand .sbcZp), (0xE6#8, .byteOperand .incZp), (0xE8#8, .noOperand .inx),
   (0xE9#8, .byteOperand .sbcImm), (0xEA#8, .noOperand .nop), (0xEC#8, .wordOperand .cpxAbs),
   (0xED#8, .wordOperand .sbcAbs), (0xEE#8, .wordOperand .incAbs)]

/-- Row `Fx` of the opcode matrix (30_encoding.md R53). -/
def opcodeRowF : List (Byte × Slot) :=
  [(0xF0#8, .byteOperand .beq), (0xF1#8, .byteOperand .sbcIndy), (0xF5#8, .byteOperand .sbcZpx),
   (0xF6#8, .byteOperand .incZpx), (0xF8#8, .noOperand .sed), (0xF9#8, .wordOperand .sbcAbsy),
   (0xFD#8, .wordOperand .sbcAbsx), (0xFE#8, .wordOperand .incAbsx)]

/-- The populated slots (30_encoding.md R53). -/
def opcodeTable : List (Byte × Slot) :=
  opcodeRow0 ++ opcodeRow1 ++ opcodeRow2 ++ opcodeRow3 ++ opcodeRow4 ++ opcodeRow5 ++ opcodeRow6 ++ opcodeRow7 ++
  opcodeRow8 ++ opcodeRow9 ++ opcodeRowA ++ opcodeRowB ++ opcodeRowC ++ opcodeRowD ++ opcodeRowE ++ opcodeRowF

/-- The slot of an opcode; `none` for the 105 undefined values (30_encoding.md R54). -/
def findSlot (opc : Byte) : List (Byte × Slot) → Option Slot
  | [] => none
  | (k, slot) :: rest => if k = opc then some slot else findSlot opc rest

/-- The table lookup of the whole opcode byte (30_encoding.md R52). -/
def slotOf (opc : Byte) : Option Slot := findSlot opc opcodeTable

/-- The length is told by the opcode byte alone; an undefined opcode has none (30_encoding.md R56). -/
def opcodeLength (opc : Byte) : Option Nat := (slotOf opc).map Slot.length

/-- What decoding answers. -/
inductive Decoded where
  /-- An instruction and the bytes after it. -/
  | instr (i : Instr) (rest : List Byte)
  /-- One of the 105 undefined opcode values (30_encoding.md R54). -/
  | undefinedOpcode (opc : Byte)
  /-- Fewer bytes than the opcode's length were given. It cannot arise in a step, which reads the
  length's bytes (log entry 12). -/
  | tooShort
deriving DecidableEq, Repr

/-- Decoding of the bytes of an instruction, opcode first (30_encoding.md R50 to R52). -/
def decode : List Byte → Decoded
  | [] => .tooShort
  | opc :: rest =>
    match slotOf opc with
    | none => .undefinedOpcode opc
    | some (.noOperand i) => .instr i rest
    | some (.byteOperand mk) =>
      match rest with
      | b :: more => .instr (mk b) more
      | [] => .tooShort
    | some (.wordOperand mk) =>
      match rest with
      | lo :: hi :: more => .instr (mk (word16 hi lo)) more
      | _ => .tooShort

/-- The bytes of an instruction, opcode first, the low byte of an address before the high byte
(30_encoding.md R50, R51, R53). -/
def encode : Instr → List Byte
  | .adcIndx z => [0x61#8, z]
  | .adcZp z => [0x65#8, z]
  | .adcImm v => [0x69#8, v]
  | .adcAbs a => [0x6D#8, loByte a, hiByte a]
  | .adcIndy z => [0x71#8, z]
  | .adcZpx z => [0x75#8, z]
  | .adcAbsy a => [0x79#8, loByte a, hiByte a]
  | .adcAbsx a => [0x7D#8, loByte a, hiByte a]
  | .andIndx z => [0x21#8, z]
  | .andZp z => [0x25#8, z]
  | .andImm v => [0x29#8, v]
  | .andAbs a => [0x2D#8, loByte a, hiByte a]
  | .andIndy z => [0x31#8, z]
  | .andZpx z => [0x35#8, z]
  | .andAbsy a => [0x39#8, loByte a, hiByte a]
  | .andAbsx a => [0x3D#8, loByte a, hiByte a]
  | .aslZp z => [0x06#8, z]
  | .aslAcc => [0x0A#8]
  | .aslAbs a => [0x0E#8, loByte a, hiByte a]
  | .aslZpx z => [0x16#8, z]
  | .aslAbsx a => [0x1E#8, loByte a, hiByte a]
  | .bcc d => [0x90#8, d]
  | .bcs d => [0xB0#8, d]
  | .beq d => [0xF0#8, d]
  | .bitZp z => [0x24#8, z]
  | .bitAbs a => [0x2C#8, loByte a, hiByte a]
  | .bmi d => [0x30#8, d]
  | .bne d => [0xD0#8, d]
  | .bpl d => [0x10#8, d]
  | .brk => [0x00#8]
  | .bvc d => [0x50#8, d]
  | .bvs d => [0x70#8, d]
  | .clc => [0x18#8]
  | .cld => [0xD8#8]
  | .cli => [0x58#8]
  | .clv => [0xB8#8]
  | .cmpIndx z => [0xC1#8, z]
  | .cmpZp z => [0xC5#8, z]
  | .cmpImm v => [0xC9#8, v]
  | .cmpAbs a => [0xCD#8, loByte a, hiByte a]
  | .cmpIndy z => [0xD1#8, z]
  | .cmpZpx z => [0xD5#8, z]
  | .cmpAbsy a => [0xD9#8, loByte a, hiByte a]
  | .cmpAbsx a => [0xDD#8, loByte a, hiByte a]
  | .cpxImm v => [0xE0#8, v]
  | .cpxZp z => [0xE4#8, z]
  | .cpxAbs a => [0xEC#8, loByte a, hiByte a]
  | .cpyImm v => [0xC0#8, v]
  | .cpyZp z => [0xC4#8, z]
  | .cpyAbs a => [0xCC#8, loByte a, hiByte a]
  | .decZp z => [0xC6#8, z]
  | .decAbs a => [0xCE#8, loByte a, hiByte a]
  | .decZpx z => [0xD6#8, z]
  | .decAbsx a => [0xDE#8, loByte a, hiByte a]
  | .dex => [0xCA#8]
  | .dey => [0x88#8]
  | .eorIndx z => [0x41#8, z]
  | .eorZp z => [0x45#8, z]
  | .eorImm v => [0x49#8, v]
  | .eorAbs a => [0x4D#8, loByte a, hiByte a]
  | .eorIndy z => [0x51#8, z]
  | .eorZpx z => [0x55#8, z]
  | .eorAbsy a => [0x59#8, loByte a, hiByte a]
  | .eorAbsx a => [0x5D#8, loByte a, hiByte a]
  | .incZp z => [0xE6#8, z]
  | .incAbs a => [0xEE#8, loByte a, hiByte a]
  | .incZpx z => [0xF6#8, z]
  | .incAbsx a => [0xFE#8, loByte a, hiByte a]
  | .inx => [0xE8#8]
  | .iny => [0xC8#8]
  | .jmpAbs a => [0x4C#8, loByte a, hiByte a]
  | .jmpInd p => [0x6C#8, loByte p, hiByte p]
  | .jsr a => [0x20#8, loByte a, hiByte a]
  | .ldaIndx z => [0xA1#8, z]
  | .ldaZp z => [0xA5#8, z]
  | .ldaImm v => [0xA9#8, v]
  | .ldaAbs a => [0xAD#8, loByte a, hiByte a]
  | .ldaIndy z => [0xB1#8, z]
  | .ldaZpx z => [0xB5#8, z]
  | .ldaAbsy a => [0xB9#8, loByte a, hiByte a]
  | .ldaAbsx a => [0xBD#8, loByte a, hiByte a]
  | .ldxImm v => [0xA2#8, v]
  | .ldxZp z => [0xA6#8, z]
  | .ldxAbs a => [0xAE#8, loByte a, hiByte a]
  | .ldxZpy z => [0xB6#8, z]
  | .ldxAbsy a => [0xBE#8, loByte a, hiByte a]
  | .ldyImm v => [0xA0#8, v]
  | .ldyZp z => [0xA4#8, z]
  | .ldyAbs a => [0xAC#8, loByte a, hiByte a]
  | .ldyZpx z => [0xB4#8, z]
  | .ldyAbsx a => [0xBC#8, loByte a, hiByte a]
  | .lsrZp z => [0x46#8, z]
  | .lsrAcc => [0x4A#8]
  | .lsrAbs a => [0x4E#8, loByte a, hiByte a]
  | .lsrZpx z => [0x56#8, z]
  | .lsrAbsx a => [0x5E#8, loByte a, hiByte a]
  | .nop => [0xEA#8]
  | .oraIndx z => [0x01#8, z]
  | .oraZp z => [0x05#8, z]
  | .oraImm v => [0x09#8, v]
  | .oraAbs a => [0x0D#8, loByte a, hiByte a]
  | .oraIndy z => [0x11#8, z]
  | .oraZpx z => [0x15#8, z]
  | .oraAbsy a => [0x19#8, loByte a, hiByte a]
  | .oraAbsx a => [0x1D#8, loByte a, hiByte a]
  | .pha => [0x48#8]
  | .php => [0x08#8]
  | .pla => [0x68#8]
  | .plp => [0x28#8]
  | .rolZp z => [0x26#8, z]
  | .rolAcc => [0x2A#8]
  | .rolAbs a => [0x2E#8, loByte a, hiByte a]
  | .rolZpx z => [0x36#8, z]
  | .rolAbsx a => [0x3E#8, loByte a, hiByte a]
  | .rorZp z => [0x66#8, z]
  | .rorAcc => [0x6A#8]
  | .rorAbs a => [0x6E#8, loByte a, hiByte a]
  | .rorZpx z => [0x76#8, z]
  | .rorAbsx a => [0x7E#8, loByte a, hiByte a]
  | .rti => [0x40#8]
  | .rts => [0x60#8]
  | .sbcIndx z => [0xE1#8, z]
  | .sbcZp z => [0xE5#8, z]
  | .sbcImm v => [0xE9#8, v]
  | .sbcAbs a => [0xED#8, loByte a, hiByte a]
  | .sbcIndy z => [0xF1#8, z]
  | .sbcZpx z => [0xF5#8, z]
  | .sbcAbsy a => [0xF9#8, loByte a, hiByte a]
  | .sbcAbsx a => [0xFD#8, loByte a, hiByte a]
  | .sec => [0x38#8]
  | .sed => [0xF8#8]
  | .sei => [0x78#8]
  | .staIndx z => [0x81#8, z]
  | .staZp z => [0x85#8, z]
  | .staAbs a => [0x8D#8, loByte a, hiByte a]
  | .staIndy z => [0x91#8, z]
  | .staZpx z => [0x95#8, z]
  | .staAbsy a => [0x99#8, loByte a, hiByte a]
  | .staAbsx a => [0x9D#8, loByte a, hiByte a]
  | .stxZp z => [0x86#8, z]
  | .stxAbs a => [0x8E#8, loByte a, hiByte a]
  | .stxZpy z => [0x96#8, z]
  | .styZp z => [0x84#8, z]
  | .styAbs a => [0x8C#8, loByte a, hiByte a]
  | .styZpx z => [0x94#8, z]
  | .tax => [0xAA#8]
  | .tay => [0xA8#8]
  | .tsx => [0xBA#8]
  | .txa => [0x8A#8]
  | .txs => [0x9A#8]
  | .tya => [0x98#8]

/-- The displacement an assembler gives the branch at `branch` to reach `target`, where it lies in
`-128 .. 127`: `(target - (branch + 2)) mod 256` (30_encoding.md R57). -/
def branchDisplacement (branch target : Addr) : Option Byte :=
  let d := target - (branch + 2)
  if Machine.sext16 (loByte d) = d then some (loByte d) else none

/-- The instruction read from the table word `w` of `nbits` bits: byte 0 is its least significant
byte, bits at and above `nbits` are 0, and three bytes are given to the decoder. -/
def decodeTableWord (nbits w : Nat) : Option Instr :=
  let v := w % 2 ^ nbits
  match decode [BitVec.ofNat 8 v, BitVec.ofNat 8 (v / 256), BitVec.ofNat 8 (v / 65536)] with
  | .instr i _ => some i
  | _ => none

end Sys2Proof
end

