-- ==== Sys2Proof/Machine/Fetch.lean ====
section
/-! DEFINITION. Fetching an instruction through the bus, what a halting, an undefined and a stuck
fetch answer, and placing an instruction where the next fetch finds it (spec/40_step_and_addressing.md
R60 to R63, 20_memory.md R43). -/

namespace Sys2Proof.Machine

/-- What the fetch of one instruction finds; the state is the one after its bus reads. -/
inductive Fetched where
  | instr (i : Instr) (s : State)
  | halt (s : State)
  | undefinedOpcode (opc : Byte) (s : State)
  | wait
deriving DecidableEq, Repr

/-- `n` bytes from `a` on, in ascending address order modulo 65536 (30_encoding.md R50, 20_memory.md R43). -/
def readBytes : Nat → Addr → State → Option (List Byte × State)
  | 0, _, s => some ([], s)
  | n + 1, a, s =>
    match busRead a s with
    | none => none
    | some (b, t) =>
      match readBytes n (a + 1) t with
      | none => none
      | some (bs, u) => some (b :: bs, u)

/-- The fetch: the opcode byte at `PC`, then the halt test, then the table, then the operand bytes
(40_step_and_addressing.md R60, R61; 20_memory.md R43). Every byte of the instruction is read exactly
once, the immediate byte too (log entry 6). A halting or undefined opcode is the only byte read. -/
def fetch (s : State) : Fetched :=
  match busRead s.pc s with
  | none => .wait
  | some (opc, t) =>
    if t.par.haltOnNop && opc == Config.haltOpcode then .halt t
    else
      match opcodeLength opc with
      | none => .undefinedOpcode opc t
      | some n =>
        match readBytes (n - 1) (s.pc + 1) t with
        | none => .wait
        | some (bs, u) =>
          match decode (opc :: bs) with
          | .instr i _ => .instr i u
          | _ => .undefinedOpcode opc t

/-- `RS <- Halted`, nothing else (40_step_and_addressing.md R61). -/
def haltStep (s : State) : Result := .next (s.setRun .halted)

/-- `fault(UndefinedOpcode(opc, PC))`: `RS <- Faulted`, nothing else (40_step_and_addressing.md R62). -/
def faultStep (opc : Byte) (s : State) : Result := .fault (.undefinedOpcode opc s.pc (s.setRun .faulted))

/-- A fetch that waits for console input: the step does not complete (20_memory.md R34). -/
def waitStep : Result := .fault .consoleWait

/-- A step taken while halted or faulted does nothing (40_step_and_addressing.md R63). -/
def stoppedStep (s : State) : Result := .next s

/-- `b` placed where a bus read of `a` finds it: in RAM, in program storage, or as the next input byte. -/
def placeByte (a : Addr) (b : Byte) (s : State) : State :=
  match regionOf a with
  | .ram => s.setRam (Memory.write s.ram a.toNat b)
  | .io => s.setInput (prependInput b s.input)
  | .rom => { s with par := { s.par with rom := Memory.write s.par.rom (romIndex a) b } }

/-- The three bytes of a table word (bits at and above `nbits` zero) placed at `PC`, and the core
running, so that the next step fetches them (log entry 2). -/
def placeWord (s : State) (nbits w : Nat) : State :=
  let v := w % 2 ^ nbits
  placeByte s.pc (BitVec.ofNat 8 v)
    (placeByte (s.pc + 1) (BitVec.ofNat 8 (v / 256))
      (placeByte (s.pc + 2) (BitVec.ofNat 8 (v / 65536)) (s.setRun .running)))

end Sys2Proof.Machine
end

