-- ==== Sys2Proof/Machine/Step.lean ====
section
/-! DEFINITION. `Step` (spec/40_step_and_addressing.md R60 to R63). -/

namespace Sys2Proof.Machine

/-- One whole instruction (40_step_and_addressing.md R60): a stopped core does nothing; a running one
fetches, and halts, faults, waits or executes what it fetched. -/
def step (s : State) : Host.Outcome State Fault Refusal :=
  match s.run with
  | .halted => stoppedStep s
  | .faulted => stoppedStep s
  | .running =>
    match fetch s with
    | .instr i t => exec i t
    | .halt t => haltStep t
    | .undefinedOpcode opc t => faultStep opc t
    | .wait => waitStep

/-- The state whose next step fetches and runs the instruction of the table word `w` (log entry 2). -/
def State.withFetchWord (s : State) (nbits w : Nat) : State := placeWord s nbits w

end Sys2Proof.Machine
end

