-- ==== Sys2Proof/Safety.lean ====
section
/-! DEFINITION. What a good state is and how a run ends (spec/10_state.md R14, R22;
70_reset_and_hazards.md R205). -/

namespace Sys2Proof.Machine

/-- The invariant of the machine: RAM and ROM are in canonical form and inside their declared sizes
(10_state.md R18, R19, R22), `P.B` is 0 (10_state.md R14), and what is left of the input is an end
piece of `INPUT` (20_memory.md R42). -/
abbrev State.Inv (s : State) : Prop :=
  Memory.wf Config.ramSize s.ram = true ∧ Memory.wf Config.romSize s.par.rom = true ∧
    getFlag .b s.p = false ∧ inputTail s.input s.par.input

/-- The parameters a model may be given: program storage in canonical form, at most 0x8000 bytes
(20_memory.md R47). -/
abbrev paramsWf (par : Params) : Prop := Memory.wf Config.romSize par.rom = true

/-- A run ends well when the core has halted (70_reset_and_hazards.md R205). -/
abbrev State.endedWell (s : State) : Prop := s.run = .halted

/-- A run ends badly when the core has faulted (70_reset_and_hazards.md R205). -/
abbrev State.endedBadly (s : State) : Prop := s.run = .faulted

/-- The step of `s` never completes: it waits for console input that will not come (20_memory.md R34). -/
abbrev State.stuck (s : State) : Prop := step s = .fault .consoleWait

/-- Two states that agree on everything but the bits of `P` under `mask`. -/
abbrev State.agreeUpTo (mask : Byte) (s t : State) : Prop :=
  t = s.setP t.p ∧ s.p &&& ~~~mask = t.p &&& ~~~mask

/-- Two outcomes of a step that agree on everything but the bits of `P` under `mask`. -/
def agreeingResults (mask : Byte) : Result → Result → Prop
  | .next s, .next t => State.agreeUpTo mask s t
  | .fault (.undefinedOpcode o a s), .fault (.undefinedOpcode o' a' t) => o = o' ∧ a = a' ∧ State.agreeUpTo mask s t
  | .fault .consoleWait, .fault .consoleWait => True
  | _, _ => False

/-! ## Who writes what (the tables of 10_state.md) -/

/-- The mnemonics that write `A` in every form; the four shifts write it in accumulator mode only
(10_state.md R10). -/
def accumulatorWriters : List Mnemonic := [.lda, .pla, .txa, .tya, .adc, .sbc, .and, .ora, .eor]

/-- The mnemonics that write `X` (10_state.md R10). -/
def xWriters : List Mnemonic := [.ldx, .tax, .tsx, .inx, .dex]

/-- The mnemonics that write `Y` (10_state.md R10). -/
def yWriters : List Mnemonic := [.ldy, .tay, .iny, .dey]

/-- The mnemonics that write `S` (10_state.md R11). -/
def stackPointerWriters : List Mnemonic := [.txs, .pha, .php, .pla, .plp, .jsr, .rts, .brk, .rti]

/-- The mnemonics that set Z and N from a result, BIT included (10_state.md section 6). -/
def resultMnemonics : List Mnemonic :=
  [.lda, .ldx, .ldy, .tax, .tay, .txa, .tya, .tsx, .pla, .adc, .sbc, .cmp, .cpx, .cpy, .inc, .dec, .inx, .iny,
   .dex, .dey, .and, .ora, .eor, .bit, .asl, .lsr, .rol, .ror]

/-- Which mnemonics write a flag (10_state.md section 6). -/
def flagWriters : Flag → List Mnemonic
  | .n | .z => resultMnemonics ++ [.plp, .rti]
  | .v => [.adc, .sbc, .bit, .clv, .plp, .rti]
  | .b | .u => [.plp, .rti]
  | .d => [.cld, .sed, .plp, .rti]
  | .i => [.cli, .sei, .brk, .plp, .rti]
  | .c => [.adc, .sbc, .cmp, .cpx, .cpy, .asl, .lsr, .rol, .ror, .clc, .sec, .plp, .rti]

/-- The mnemonics that may put `PC` anywhere else than past their own bytes (40_step_and_addressing.md R60). -/
def pcWriters : List Mnemonic :=
  [.bcc, .bcs, .beq, .bne, .bmi, .bpl, .bvc, .bvs, .jmp, .jsr, .rts, .rti, .brk]

/-- The mnemonics that store to their operand; the four shifts do so in their memory forms. -/
def operandStores : List Mnemonic := [.sta, .stx, .sty, .inc, .dec, .asl, .lsr, .rol, .ror]

/-- The mnemonics that push. -/
def pushMnemonics : List Mnemonic := [.pha, .php, .jsr, .brk]

/-- The 105 undefined opcode values, as 30_encoding.md R54 lists them. -/
def undefinedOpcodes : List Nat :=
  [0x02, 0x03, 0x04, 0x07, 0x0B, 0x0C, 0x0F, 0x12, 0x13, 0x14, 0x17, 0x1A, 0x1B, 0x1C, 0x1F, 0x22, 0x23, 0x27, 0x2B,
   0x2F, 0x32, 0x33, 0x34, 0x37, 0x3A, 0x3B, 0x3C, 0x3F, 0x42, 0x43, 0x44, 0x47, 0x4B, 0x4F] ++
  [0x52, 0x53, 0x54, 0x57, 0x5A, 0x5B, 0x5C, 0x5F, 0x62, 0x63, 0x64, 0x67, 0x6B, 0x6F, 0x72, 0x73, 0x74, 0x77, 0x7A,
   0x7B, 0x7C, 0x7F, 0x80, 0x82, 0x83, 0x87, 0x89, 0x8B, 0x8F, 0x92, 0x93, 0x97, 0x9B, 0x9C, 0x9E, 0x9F] ++
  [0xA3, 0xA7, 0xAB, 0xAF, 0xB2, 0xB3, 0xB7, 0xBB, 0xBF, 0xC2, 0xC3, 0xC7, 0xCB, 0xCF, 0xD2, 0xD3, 0xD4, 0xD7, 0xDA,
   0xDB, 0xDC, 0xDF, 0xE2, 0xE3, 0xE7, 0xEB, 0xEF, 0xF2, 0xF3, 0xF4, 0xF7, 0xFA, 0xFB, 0xFC, 0xFF]

end Sys2Proof.Machine
end

