-- ==== Sys2Proof/Certificates/Slice0/Obligations.lean ====
section
/-! DEFINITION. The statements for the provers. Each docstring names the rules of spec/ it rests on.
`s.pc` in a statement about `exec` is the address of the opcode byte (`pc0` of the spec). -/

open Sys2Proof Sys2Proof.Machine

/-! ## Reset -/

/-- R23, R200: what reset leaves, for every choice of the parameters. -/
def Obligations.ResetLeavesTheStatedValues : Prop :=
  ∀ par : Params,
    (State.ofParams par).a = 0x00#8 ∧ (State.ofParams par).x = 0x00#8 ∧ (State.ofParams par).y = 0x00#8 ∧
    (State.ofParams par).s = 0x00#8 ∧ (State.ofParams par).p = 0x00#8 ∧ (State.ofParams par).run = .running ∧
    (∀ k, Memory.read (State.ofParams par).ram k = 0x00#8) ∧
    (State.ofParams par).input = par.input ∧ (State.ofParams par).output = [] ∧ (State.ofParams par).par = par ∧
    (State.ofParams par).pc = word16 (Memory.read par.rom 0x7FFD) (Memory.read par.rom 0x7FFC) ∧
    read16 0xFFFC#16 (State.ofParams par) = some ((State.ofParams par).pc, State.ofParams par)

/-- R201: after any number of steps the reset input gives the state a cold reset of the same
parameters gives, from whatever run state. That the reset input is an operation beside the step is the
model's choice, log entry 7. -/
def Obligations.WarmResetEqualsColdReset : Prop :=
  ∀ (k : Nat) (s t : State), Host.Core.run Sys2Proof.core k s = .next t → t.warmReset = State.ofParams s.par

/-! ## Memory and bus -/

/-- R32, R34: what a byte read answers in each region; the console read takes the first input byte, given
or from an endless rest, and waits without one. How an endless input is held is the model's choice, log
entry 16, and nothing is known of its bytes; that a read which waits is `none` is the model's choice, log
entry 4. -/
def Obligations.BusReadFollowsTheAddressMap : Prop :=
  ∀ (a : Addr) (s : State),
    (a.toNat < 0x2000 → busRead a s = some (Memory.read s.ram a.toNat, s)) ∧
    (a.toNat = 0x2000 → (s.input = .empty → busRead a s = none) ∧
      (∀ b rest e, s.input = ⟨b :: rest, e⟩ → busRead a s = some (b, { s with input := ⟨rest, e⟩ })) ∧
      ∀ j n, s.input = ⟨[], some ⟨j, n⟩⟩ →
        busRead a s = some (Config.endlessByte j n, { s with input := ⟨[], some ⟨j, n + 1⟩⟩ })) ∧
    (0x2000 < a.toNat → busRead a s = some (Memory.read s.par.rom (a.toNat % 0x8000), s))

/-- R33: what a byte write does in each region. The premise is the memory invariant. -/
def Obligations.BusWriteFollowsTheAddressMap : Prop :=
  ∀ (a : Addr) (v : Byte) (s : State), Memory.wf 0x2000 s.ram = true →
    (a.toNat < 0x2000 → ∃ m, busWrite a v s = { s with ram := m } ∧
      ∀ k, Memory.read m k = if k = a.toNat then v else Memory.read s.ram k) ∧
    (a.toNat = 0x2000 → busWrite a v s = { s with output := s.output ++ [v] }) ∧
    (0x2000 < a.toNat → busWrite a v s = s)

/-- R47: an image of at most 0x8000 bytes is loaded, padded with zeros, and its byte `i` is seen at
`0x8000 + i`; a longer one is refused. -/
def Obligations.ImageIsPaddedOrRefused : Prop :=
  ∀ bytes : List Byte,
    (bytes.length ≤ 0x8000 → ∃ m, loadImage bytes = some m ∧ (∀ i, Memory.read m i = bytes.getD i 0x00#8) ∧
      ∀ (inp : InputSeq) (h : Bool) (i : Nat), i < 0x8000 →
        peek (State.ofParams ⟨m, inp, h⟩) (0x8000#16 + BitVec.ofNat 16 i) = some (bytes.getD i 0x00#8)) ∧
    (0x8000 < bytes.length → loadImage bytes = none)

/-- R35, R36: `Read16` reads the low byte first and the high byte one address on, modulo 65536;
`Read16Bug` takes the high byte from the same page and equals `Read16` when the low byte of the address
is not `0xFF`. -/
def Obligations.SixteenBitReadsAndThePageWrap : Prop :=
  (∀ (a : Addr) (s t u : State) (lo hi : Byte), busRead a s = some (lo, t) →
    (busRead (BitVec.ofNat 16 ((a.toNat + 1) % 65536)) t = some (hi, u) → read16 a s = some (word16 hi lo, u)) ∧
    (busRead ((a &&& 0xFF00#16) ||| ((a + 1) &&& 0x00FF#16)) t = some (hi, u) → read16Bug a s = some (word16 hi lo, u))) ∧
  (∀ hi lo : Byte, (word16 hi lo).toNat = hi.toNat * 256 + lo.toNat) ∧
  (∀ a : Addr, hiByte ((a &&& 0xFF00#16) ||| ((a + 1) &&& 0x00FF#16)) = hiByte a) ∧
  ∀ (a : Addr) (s : State), loByte a ≠ 0xFF#8 → read16Bug a s = read16 a s

/-! ## Status register and ALU -/

/-- R15, R16: the flag primitives read and write one bit; `SetZN` writes Z and N and no other bit. -/
def Obligations.FlagPrimitivesWriteTheirBitsOnly : Prop :=
  ∀ (f g : Flag) (e : Bool) (v p : Byte),
    getFlag f p = ((p >>> f.bit) &&& 1#8 == 1#8) ∧
    getFlag g (setFlag f e p) = (if g = f then e else getFlag g p) ∧
    getFlag g (setZN v p) = if g = .z then v == 0x00#8 else if g = .n then decide (128 ≤ v.toNat) else getFlag g p

/-- R110: the adder against integer arithmetic; overflow is leaving `-128 .. 127`. -/
def Obligations.Add8MatchesIntegerArithmetic : Prop :=
  ∀ (a b : Byte) (c : Bool),
    (add8 a b c).result.toNat = (a.toNat + b.toNat + c.toNat) % 256 ∧
    ((add8 a b c).carry = true ↔ 255 < a.toNat + b.toNat + c.toNat) ∧
    ((add8 a b c).ovf = true ↔ a.toInt + b.toInt + (c.toNat : Int) < -128 ∨ 127 < a.toInt + b.toInt + (c.toNat : Int))

/-- R111: the subtractor against integer arithmetic, and its identity with the adder. -/
def Obligations.Sub8MatchesIntegerArithmetic : Prop :=
  ∀ (a b : Byte) (c : Bool),
    ((sub8 a b c).result.toNat : Int) = ((a.toNat : Int) - b.toNat - (1 - c.toNat)) % 256 ∧
    ((sub8 a b c).carry = true ↔ 0 ≤ (a.toNat : Int) - b.toNat - (1 - c.toNat)) ∧
    ((sub8 a b c).ovf = true ↔
      a.toInt - b.toInt - (1 - (c.toNat : Int)) < -128 ∨ 127 < a.toInt - b.toInt - (1 - (c.toNat : Int))) ∧
    sub8 a b c = add8 a (b ^^^ 0xFF#8) c

/-- R112: the compare's three flags; the other five are kept. -/
def Obligations.Cmp8SetsCarryZeroNegative : Prop :=
  ∀ (r m p : Byte) (g : Flag),
    getFlag g (cmp8 r m p) =
      if g = .c then decide (m.toNat ≤ r.toNat) else if g = .z then r == m
      else if g = .n then (r - m).getLsbD 7 else getFlag g p

/-! ## Stack unit -/

/-- R78, R79: a push writes one byte at `0x0100 + S` and then adds 1 to `S`; a pull subtracts 1 from `S`
and then reads the byte there, which stays in RAM; nothing else changes, and a pull after a push gives the
byte back with `S` restored. -/
def Obligations.PushAndPullByteOnTheStackPage : Prop :=
  ∀ (v : Byte) (s : State), Memory.wf 0x2000 s.ram = true →
    (∃ m, push8 v s = { s with ram := m, s := s.s + 1 }) ∧
    peek (push8 v s) (0x0100#16 + zext16 s.s) = some v ∧
    (∀ b, b ≠ 0x0100#16 + zext16 s.s → peek (push8 v s) b = peek s b) ∧
    pull8 s = some (Memory.read s.ram (0x0100 + (s.s - 1).toNat), { s with s := s.s - 1 }) ∧
    (∃ m, pull8 (push8 v s) = some (v, { s with ram := m }))

/-- R80, R81: a pushed word has its high byte at the old stack address and its low byte one on, each
wrapping in the stack page, and pulling gives it back with `S` restored and nothing but RAM changed. -/
def Obligations.PushedWordComesBack : Prop :=
  ∀ (w : Addr) (s : State), Memory.wf 0x2000 s.ram = true →
    peek (push16 w s) (0x0100#16 + zext16 s.s) = some (hiByte w) ∧
    peek (push16 w s) (0x0100#16 + zext16 (s.s + 1)) = some (loByte w) ∧
    (∀ b, b ≠ 0x0100#16 + zext16 s.s → b ≠ 0x0100#16 + zext16 (s.s + 1) → peek (push16 w s) b = peek s b) ∧
    (∃ m, pull16 (push16 w s) = some (w, { s with ram := m }))

/-! ## Resolver -/

/-- R64 to R73 and R77: the ten modes that read no pointer, and reading and writing what a resolver
yields. An immediate operand is the byte itself, already read by the fetch: the model's reading, log
entry 6. -/
def Obligations.ResolverOfDirectModesAndOperandAccess : Prop :=
  ∀ (s : State) (z d v : Byte) (a : Addr),
    resolve .implied s = some (.none, { s with pc := s.pc + 1 }) ∧
    resolve .accumulator s = some (.none, { s with pc := s.pc + 1 }) ∧
    resolve (.immediate z) s = some (.imm z, { s with pc := s.pc + 2 }) ∧
    resolve (.zeroPage z) s = some (.addr (BitVec.ofNat 16 z.toNat), { s with pc := s.pc + 2 }) ∧
    resolve (.zeroPageX z) s = some (.addr (BitVec.ofNat 16 ((z.toNat + s.x.toNat) % 256)), { s with pc := s.pc + 2 }) ∧
    resolve (.zeroPageY z) s = some (.addr (BitVec.ofNat 16 ((z.toNat + s.y.toNat) % 256)), { s with pc := s.pc + 2 }) ∧
    resolve (.relative d) s = some (.disp d, { s with pc := s.pc + 1 }) ∧
    resolve (.absolute a) s = some (.addr a, { s with pc := s.pc + 3 }) ∧
    resolve (.absoluteX a) s = some (.addr (BitVec.ofNat 16 (a.toNat + s.x.toNat)), { s with pc := s.pc + 3 }) ∧
    resolve (.absoluteY a) s = some (.addr (BitVec.ofNat 16 (a.toNat + s.y.toNat)), { s with pc := s.pc + 3 }) ∧
    load .none s = some (s.a, s) ∧ load (.imm v) s = some (v, s) ∧ load (.addr a) s = busRead a s ∧
    store .none v s = { s with a := v } ∧ store (.addr a) v s = busWrite a v s

/-- R74 to R76: the three pointer modes; the zero-page pointers wrap inside page 0 and never wait. -/
def Obligations.ResolverOfPointerModes : Prop :=
  (∀ (s : State) (z : Byte),
    resolve (.indirectX z) s =
      some (.addr (word16 (Memory.read s.ram ((z.toNat + s.x.toNat + 1) % 256)) (Memory.read s.ram ((z.toNat + s.x.toNat) % 256))),
        { s with pc := s.pc + 2 }) ∧
    resolve (.indirectY z) s =
      some (.addr (word16 (Memory.read s.ram ((z.toNat + 1) % 256)) (Memory.read s.ram z.toNat) + BitVec.ofNat 16 s.y.toNat),
        { s with pc := s.pc + 2 })) ∧
  ∀ (s t : State) (p a : Addr), read16Bug p { s with pc := s.pc + 3 } = some (a, t) →
    resolve (.indirect p) s = some (.addr a, t)

/-- R82: every resolver leaves `PC` past the instruction, the relative one at the displacement byte; it
writes `PC` and, reading a pointer at the console, takes input; nothing else changes. -/
def Obligations.ResolverMovesOnlyThePc : Prop :=
  ∀ (f : Form) (s t : State) (op : Operand), resolve f s = some (op, t) →
    t.pc = s.pc + BitVec.ofNat 16 (if f.mode = .relative then 1 else f.mode.length) ∧
    t = { s with pc := t.pc, input := t.input } ∧ inputTail t.input s.input

/-! ## Encoding -/

/-- R53: a few encodings written out. -/
def Obligations.WrittenOutWordsDecode : Prop :=
  decode [0xA9#8, 0x05#8] = .instr (.ldaImm 0x05#8) [] ∧
  decode [0x8D#8, 0x00#8, 0x20#8] = .instr (.staAbs 0x2000#16) [] ∧
  decode [0x71#8, 0x10#8] = .instr (.adcIndy 0x10#8) [] ∧
  decode [0x6A#8] = .instr .rorAcc [] ∧
  decode [0xD0#8, 0xFB#8] = .instr (.bne 0xFB#8) [] ∧
  decode [0x6C#8, 0xFF#8, 0x02#8] = .instr (.jmpInd 0x02FF#16) [] ∧
  decode [0x00#8] = .instr .brk [] ∧
  decode [0x02#8] = .undefinedOpcode 0x02#8

/-- R50 to R53: decoding the bytes of any instruction, whatever follows them, gives it back. -/
def Obligations.DecodeOfEncodeIsTheInstruction : Prop :=
  ∀ (i : Instr) (rest : List Byte), i.wf = true → decode (encode i ++ rest) = .instr i rest

/-- R50 to R53: what decodes to an instruction begins with exactly its bytes. -/
def Obligations.DecodedBytesAreTheEncoding : Prop :=
  ∀ (bytes rest : List Byte) (i : Instr), decode bytes = .instr i rest → bytes = encode i ++ rest

/-- R54, R56: exactly the listed values have no instruction and no length. -/
def Obligations.UndefinedOpcodesAreTheListedOnes : Prop :=
  ∀ (opc : Byte) (rest : List Byte),
    (decode (opc :: rest) = .undefinedOpcode opc ↔ opc.toNat ∈ undefinedOpcodes) ∧
    (opcodeLength opc = none ↔ opc.toNat ∈ undefinedOpcodes)

/-- R53: the two tables say the same thing: each instruction is in a mode its mnemonic has, and each
mode of a mnemonic has its instruction. -/
def Obligations.MnemonicTableAndInstructionsAgree : Prop :=
  (∀ i : Instr, i.wf = true) ∧
  ∀ (m : Mnemonic) (f : Form), admits m f = true → ∃ i : Instr, i.mnemonic = m ∧ i.form = f

/-- R57, R140: the assembler's displacement is the one that makes a taken branch reach its target, and
it exists exactly when some displacement reaches it. -/
def Obligations.BranchDisplacementReachesItsTarget : Prop :=
  (∀ d : Byte, (sext16 d).toInt = if d.toNat < 0x80 then (d.toNat : Int) else (d.toNat : Int) - 0x100) ∧
  ∀ (branch target : Addr) (d : Byte),
    branchDisplacement branch target = some d ↔ branch + 2 + sext16 d = target

/-! ## The step -/

/-- R60, R43: a running core reads the opcode, then the operand bytes in ascending order, and runs what
they decode to. `EA` with `HALT_ON_NOP` is the other case. That the fetch reads the immediate byte too is
the model's choice, log entry 6. -/
def Obligations.StepRunsTheFetchedInstruction : Prop :=
  ∀ (s t u : State) (opc : Byte) (bytes rest : List Byte) (n : Nat) (i : Instr),
    s.run = .running → busRead s.pc s = some (opc, t) → ¬(s.par.haltOnNop = true ∧ opc = 0xEA#8) →
    opcodeLength opc = some n → readBytes (n - 1) (s.pc + 1) t = some (bytes, u) →
    decode (opc :: bytes) = .instr i rest → step s = exec i u

/-- R60, R45: when the bytes at `PC` lie in RAM or program storage and are those of `i`, the step is
`exec i` on the same state. -/
def Obligations.StepRunsTheInstructionInMemory : Prop :=
  ∀ (s : State) (i : Instr), s.run = .running → ¬(s.par.haltOnNop = true ∧ i = .nop) →
    (∀ (k : Nat) (b : Byte), (encode i)[k]? = some b → peek s (s.pc + BitVec.ofNat 16 k) = some b) →
    step s = exec i s

/-- The model's choice, log entry 2: a placed table word is fetched and run by the very next step. -/
def Obligations.PlacedWordRunsNext : Prop :=
  ∀ (s : State) (nbits w : Nat) (i : Instr), Memory.wf 0x2000 s.ram = true → Memory.wf 0x8000 s.par.rom = true →
    decodeTableWord nbits w = some i → ¬(s.par.haltOnNop = true ∧ i = .nop) →
    ∃ t, step (s.withFetchWord nbits w) = exec i t ∧ t.pc = s.pc ∧ t.a = s.a ∧ t.x = s.x ∧ t.y = s.y ∧ t.s = s.s ∧
      t.p = s.p ∧ t.run = .running ∧ t.output = s.output

/-- R61, R173: `EA` fetched as an opcode halts the core with `PC` still at it, or, with the policy off,
runs NOP. -/
def Obligations.NopHaltsOrAdvances : Prop :=
  ∀ (s t : State), s.run = .running → busRead s.pc s = some (0xEA#8, t) →
    (s.par.haltOnNop = true → step s = .next { t with run := .halted } ∧ t.pc = s.pc) ∧
    (s.par.haltOnNop = false → step s = .next { t with pc := s.pc + 1 })

/-- R61, R62, R17: a step leaves `Running` only by the halt rule or by the fault rule. A next state is
running or is the halted one of the halt rule; a fault that leaves a state leaves the faulted one, and the
opcode it names is an undefined one read at `PC`. That the fault rule is a fault outcome which carries the
state left is the model's choice, log entry 5. -/
def Obligations.RunningIsLeftOnlyByHaltOrFault : Prop :=
  ∀ s : State, s.run = .running →
    (∀ t, step s = .next t → t.run = .running ∨
      (s.par.haltOnNop = true ∧ ∃ u, busRead s.pc s = some (0xEA#8, u) ∧ t = { u with run := .halted })) ∧
    ∀ (opc : Byte) (a : Addr) (u : State), step s = .fault (.undefinedOpcode opc a u) →
      u.run = .faulted ∧ a = s.pc ∧ opc.toNat ∈ undefinedOpcodes ∧
        ∃ v, busRead s.pc s = some (opc, v) ∧ u = { v with run := .faulted }

/-- R62: an undefined opcode faults; the fault names the opcode and its address, and the state left has
only the run state changed. -/
def Obligations.UndefinedOpcodeFaults : Prop :=
  ∀ (s t : State) (opc : Byte), s.run = .running → busRead s.pc s = some (opc, t) → opc.toNat ∈ undefinedOpcodes →
    step s = .fault (.undefinedOpcode opc s.pc { t with run := .faulted })

/-- R63: a halted or faulted core does nothing, for ever, and its output pin stays asserted. -/
def Obligations.StoppedCoreDoesNothing : Prop :=
  ∀ (k : Nat) (s : State), s.run ≠ .running →
    Host.Core.run Sys2Proof.core k s = .next s ∧ haltedPin s = decide (s.run = .halted) ∧
      faultedPin s = decide (s.run = .faulted)

/-- R34: a read of the console without input does not complete, be it an operand read, the fetch of the
opcode or of an operand byte, or the pointer read of JMP indirect. The clauses on `readBytes` and
`read16Bug` say when the two wait. That a step which never completes is the outcome `consoleWait` is the
model's choice, log entry 4. -/
def Obligations.ConsoleReadWithoutInputWaits : Prop :=
  (∀ (i : Instr) (s t : State),
    i.mnemonic ∈ [Mnemonic.lda, .ldx, .ldy, .adc, .sbc, .and, .ora, .eor, .bit, .cmp, .cpx, .cpy, .inc, .dec, .asl, .lsr, .rol, .ror] →
    resolve i.form s = some (.addr 0x2000#16, t) → t.input = .empty → exec i s = .fault .consoleWait) ∧
  (∀ s : State, s.run = .running → s.pc = 0x2000#16 → s.input = .empty → step s = .fault .consoleWait) ∧
  (∀ (s t : State) (opc : Byte) (n : Nat), s.run = .running → busRead s.pc s = some (opc, t) →
    ¬(s.par.haltOnNop = true ∧ opc = 0xEA#8) → opcodeLength opc = some n →
    readBytes (n - 1) (s.pc + 1) t = none → step s = .fault .consoleWait) ∧
  (∀ (k j : Nat) (a : Addr) (s : State), j < k → a + BitVec.ofNat 16 j = 0x2000#16 → s.input = .empty →
    readBytes k a s = none) ∧
  (∀ (p : Addr) (s : State), read16Bug p { s with pc := s.pc + 3 } = none → exec (.jmpInd p) s = .fault .consoleWait) ∧
  ∀ (p : Addr) (s : State), p = 0x2000#16 ∨ bugHighAddr p = 0x2000#16 → s.input = .empty → read16Bug p s = none

/-! ## Completion -/

/-- R22, R34, R180: with one byte of input left every instruction completes, in every state. -/
def Obligations.EveryInstructionCompletesWithInput : Prop :=
  ∀ (i : Instr) (s : State), s.input ≠ .empty → ∃ t, exec i s = .next t

/-- R60 to R63, R180: with two bytes of input left, or endlessly many, every step completes or is the fault of an undefined
opcode at `PC`. -/
def Obligations.EveryStepCompletesOrFaults : Prop :=
  ∀ s : State, s.input.endless ≠ none ∨ 2 ≤ s.input.given.length →
    (∃ t, step s = .next t) ∨
    ∃ opc t, busRead s.pc s = some (opc, t) ∧ opc.toNat ∈ undefinedOpcodes ∧
      step s = .fault (.undefinedOpcode opc s.pc { t with run := .faulted })

/-! ## Results: loads, stores, transfers -/

/-- R90 to R92: `u` is the state after the operand is read, `v` the byte; an immediate one is the byte the
fetch read, log entry 6. -/
def Obligations.LoadsSetTheRegisterAndZN : Prop :=
  ∀ (i : Instr) (s t u : State) (op : Operand) (v : Byte),
    resolve i.form s = some (op, t) → load op t = some (v, u) →
    (i.mnemonic = .lda → exec i s = .next { u with a := v, p := setZN v u.p }) ∧
    (i.mnemonic = .ldx → exec i s = .next { u with x := v, p := setZN v u.p }) ∧
    (i.mnemonic = .ldy → exec i s = .next { u with y := v, p := setZN v u.p })

/-- R93 to R95: the register is written at the resolved address and nothing else happens. -/
def Obligations.StoresWriteTheRegister : Prop :=
  ∀ (i : Instr) (s : State), i.mnemonic ∈ [Mnemonic.sta, .stx, .sty] →
    ∃ a, resolve i.form s = some (.addr a, { s with pc := s.pc + BitVec.ofNat 16 i.form.mode.length }) ∧
      exec i s = .next (busWrite a
        (if i.mnemonic = .sta then s.a else if i.mnemonic = .stx then s.x else s.y)
        { s with pc := s.pc + BitVec.ofNat 16 i.form.mode.length })

/-- R96 to R101. -/
def Obligations.TransfersCopyRegisters : Prop :=
  ∀ s : State,
    exec .tax s = .next { s with pc := s.pc + 1, x := s.a, p := setZN s.a s.p } ∧
    exec .tay s = .next { s with pc := s.pc + 1, y := s.a, p := setZN s.a s.p } ∧
    exec .txa s = .next { s with pc := s.pc + 1, a := s.x, p := setZN s.x s.p } ∧
    exec .tya s = .next { s with pc := s.pc + 1, a := s.y, p := setZN s.y s.p } ∧
    exec .tsx s = .next { s with pc := s.pc + 1, x := s.s, p := setZN s.s s.p } ∧
    exec .txs s = .next { s with pc := s.pc + 1, s := s.x }

/-! ## Results: arithmetic -/

/-- R114, R115: the sum and the difference, with C, V, Z and N; `r.result`, `r.carry`, `r.ovf` are the
adder's outputs, and the Decimal flag does not appear. An immediate `m` is the byte the fetch read, log
entry 6. -/
def Obligations.AdcAndSbcUseTheAdder : Prop :=
  ∀ (i : Instr) (s t u : State) (op : Operand) (m : Byte),
    resolve i.form s = some (op, t) → load op t = some (m, u) →
    (i.mnemonic = .adc → ∃ r, r = add8 s.a m (getFlag .c s.p) ∧
      exec i s = .next { u with a := r.result, p := setZN r.result (setFlag .v r.ovf (setFlag .c r.carry s.p)) }) ∧
    (i.mnemonic = .sbc → ∃ r, r = sub8 s.a m (getFlag .c s.p) ∧
      exec i s = .next { u with a := r.result, p := setZN r.result (setFlag .v r.ovf (setFlag .c r.carry s.p)) })

/-- R116 to R118: only `P` changes, by `Cmp8` of the register and the byte `Load` answers; an immediate
one is the byte the fetch read through the bus, the model's reading, log entry 6. -/
def Obligations.ComparesSetOnlyFlags : Prop :=
  ∀ (i : Instr) (s t u : State) (op : Operand) (m : Byte),
    resolve i.form s = some (op, t) → load op t = some (m, u) →
    (i.mnemonic = .cmp → exec i s = .next { u with p := cmp8 s.a m s.p }) ∧
    (i.mnemonic = .cpx → exec i s = .next { u with p := cmp8 s.x m s.p }) ∧
    (i.mnemonic = .cpy → exec i s = .next { u with p := cmp8 s.y m s.p })

/-- R119, R120: one read and one write at the same address, Z and N from the result; in program storage
the write is discarded and the flags still change (`busWrite`). -/
def Obligations.IncAndDecStepMemory : Prop :=
  ∀ (i : Instr) (s t u : State) (a : Addr) (m : Byte),
    resolve i.form s = some (.addr a, t) → busRead a t = some (m, u) →
    (i.mnemonic = .inc → exec i s = .next { busWrite a (m + 1) u with p := setZN (m + 1) s.p }) ∧
    (i.mnemonic = .dec → exec i s = .next { busWrite a (m - 1) u with p := setZN (m - 1) s.p })

/-- R121 to R124. -/
def Obligations.RegisterStepsWrapAndSetZN : Prop :=
  ∀ s : State,
    exec .inx s = .next { s with pc := s.pc + 1, x := BitVec.ofNat 8 (s.x.toNat + 1), p := setZN (s.x + 1) s.p } ∧
    exec .iny s = .next { s with pc := s.pc + 1, y := BitVec.ofNat 8 (s.y.toNat + 1), p := setZN (s.y + 1) s.p } ∧
    exec .dex s = .next { s with pc := s.pc + 1, x := BitVec.ofNat 8 (s.x.toNat + 255), p := setZN (s.x - 1) s.p } ∧
    exec .dey s = .next { s with pc := s.pc + 1, y := BitVec.ofNat 8 (s.y.toNat + 255), p := setZN (s.y - 1) s.p }

/-! ## Results: logic and shifts -/

/-- R130 to R133; an immediate `m` is the byte the fetch read, log entry 6. -/
def Obligations.LogicAndBitTest : Prop :=
  ∀ (i : Instr) (s t u : State) (op : Operand) (m : Byte),
    resolve i.form s = some (op, t) → load op t = some (m, u) →
    (i.mnemonic = .and → exec i s = .next { u with a := s.a &&& m, p := setZN (s.a &&& m) s.p }) ∧
    (i.mnemonic = .ora → exec i s = .next { u with a := s.a ||| m, p := setZN (s.a ||| m) s.p }) ∧
    (i.mnemonic = .eor → exec i s = .next { u with a := s.a ^^^ m, p := setZN (s.a ^^^ m) s.p }) ∧
    (i.mnemonic = .bit → ∃ q, exec i s = .next { u with p := q } ∧
      ∀ g, getFlag g q = if g = .z then s.a &&& m == 0x00#8 else if g = .n then m.getLsbD 7
        else if g = .v then m.getLsbD 6 else getFlag g s.p)

/-- R134 to R137, in accumulator and memory forms alike: `v` is the byte read, `store op` puts the
result back where it was read. -/
def Obligations.ShiftsMoveOneBitThroughCarry : Prop :=
  ∀ (i : Instr) (s t u : State) (op : Operand) (v : Byte),
    resolve i.form s = some (op, t) → load op t = some (v, u) →
    (i.mnemonic = .asl →
      exec i s = .next { store op (v <<< 1) u with p := setZN (v <<< 1) (setFlag .c (v.getLsbD 7) s.p) }) ∧
    (i.mnemonic = .lsr →
      exec i s = .next { store op (v >>> 1) u with p := setZN (v >>> 1) (setFlag .c (v.getLsbD 0) s.p) }) ∧
    (i.mnemonic = .rol → ∃ r, r = (v <<< 1) ||| BitVec.ofNat 8 (getFlag .c s.p).toNat ∧
      exec i s = .next { store op r u with p := setZN r (setFlag .c (v.getLsbD 7) s.p) }) ∧
    (i.mnemonic = .ror → ∃ r, r = (v >>> 1) ||| (BitVec.ofNat 8 (getFlag .c s.p).toNat <<< 7) ∧
      exec i s = .next { store op r u with p := setZN r (setFlag .c (v.getLsbD 0) s.p) })

/-! ## Results: control flow -/

/-- R140 to R148: `PC` past the two bytes, plus the signed displacement if the flag test holds. -/
def Obligations.BranchesTestOneFlag : Prop :=
  ∀ (s : State) (d : Byte),
    exec (.bcc d) s = .next { s with pc := if getFlag .c s.p = false then s.pc + 2 + sext16 d else s.pc + 2 } ∧
    exec (.bcs d) s = .next { s with pc := if getFlag .c s.p = true then s.pc + 2 + sext16 d else s.pc + 2 } ∧
    exec (.beq d) s = .next { s with pc := if getFlag .z s.p = true then s.pc + 2 + sext16 d else s.pc + 2 } ∧
    exec (.bne d) s = .next { s with pc := if getFlag .z s.p = false then s.pc + 2 + sext16 d else s.pc + 2 } ∧
    exec (.bmi d) s = .next { s with pc := if getFlag .n s.p = true then s.pc + 2 + sext16 d else s.pc + 2 } ∧
    exec (.bpl d) s = .next { s with pc := if getFlag .n s.p = false then s.pc + 2 + sext16 d else s.pc + 2 } ∧
    exec (.bvc d) s = .next { s with pc := if getFlag .v s.p = false then s.pc + 2 + sext16 d else s.pc + 2 } ∧
    exec (.bvs d) s = .next { s with pc := if getFlag .v s.p = true then s.pc + 2 + sext16 d else s.pc + 2 }

/-- R149 to R151: JMP loads `PC` with the resolved address, the indirect form after a pointer read with
the page wrap; JSR pushes the address of its last byte and jumps; RTS pulls an address and adds 1. -/
def Obligations.JumpCallAndReturn : Prop :=
  (∀ (s t : State) (p a : Addr), read16Bug p { s with pc := s.pc + 3 } = some (a, t) →
    exec (.jmpInd p) s = .next { t with pc := a }) ∧
  ∀ (s : State) (a : Addr),
    exec (.jmpAbs a) s = .next { s with pc := a } ∧
    exec (.jsr a) s = .next { push16 (s.pc + 2) s with pc := a } ∧
    exec .rts s = .next { s with
      s := s.s - 2
      pc := word16 (Memory.read s.ram (0x0100 + (s.s - 2).toNat)) (Memory.read s.ram (0x0100 + (s.s - 1).toNat)) + 1 }

/-- R150, R151, R171, R172, R184: an RTS with the stack a JSR left continues after the JSR and restores
`S`; an RTI with the stack a BRK left resumes at the byte after the BRK with `P` as it was, bit 5 set and
bit 4 cleared; whatever else has happened to the other registers in between. -/
def Obligations.ReturnsUndoTheirEntries : Prop :=
  ∀ (s t r : State) (a : Addr), Memory.wf 0x2000 s.ram = true → r.ram = t.ram → r.s = t.s →
    (exec (.jsr a) s = .next t → exec .rts r = .next { r with s := s.s, pc := s.pc + 3 }) ∧
    (exec .brk s = .next t →
      exec .rti r = .next { r with s := s.s, pc := s.pc + 1, p := (s.p ||| 0x20#8) &&& 0xEF#8 })

/-! ## Results: stack, flags, trap, NOP -/

/-- R160 to R163. -/
def Obligations.StackInstructionsPushAndPull : Prop :=
  ∀ (s : State) (v : Byte), v = Memory.read s.ram (0x0100 + (s.s - 1).toNat) →
    exec .pha s = .next { push8 s.a s with pc := s.pc + 1 } ∧
    exec .php s = .next { push8 (s.p ||| 0x30#8) s with pc := s.pc + 1 } ∧
    exec .pla s = .next { s with pc := s.pc + 1, s := s.s - 1, a := v, p := setZN v s.p } ∧
    exec .plp s = .next { s with pc := s.pc + 1, s := s.s - 1, p := (v ||| 0x20#8) &&& 0xEF#8 }

/-- 95_test_vectors.md E6, R161, R163, R160, R162: PHP then PLP, and PHA then PLA. -/
def Obligations.PullAfterPushRoundTrip : Prop :=
  ∀ s t : State, Memory.wf 0x2000 s.ram = true →
    (exec .php s = .next t → ∃ m, exec .plp t =
      .next { s with pc := s.pc + 2, ram := m, p := (s.p ||| 0x20#8) &&& 0xEF#8 }) ∧
    (exec .pha s = .next t → ∃ m, exec .pla t = .next { s with pc := s.pc + 2, ram := m, p := setZN s.a s.p })

/-- R164 to R170, R173: one bit of `P` by its mask and nothing else; NOP only advances `PC`. -/
def Obligations.FlagInstructionsWriteOneBitAndNopNone : Prop :=
  ∀ s : State,
    exec .clc s = .next { s with pc := s.pc + 1, p := s.p &&& 0xFE#8 } ∧
    exec .sec s = .next { s with pc := s.pc + 1, p := s.p ||| 0x01#8 } ∧
    exec .cli s = .next { s with pc := s.pc + 1, p := s.p &&& 0xFB#8 } ∧
    exec .sei s = .next { s with pc := s.pc + 1, p := s.p ||| 0x04#8 } ∧
    exec .clv s = .next { s with pc := s.pc + 1, p := s.p &&& 0xBF#8 } ∧
    exec .cld s = .next { s with pc := s.pc + 1, p := s.p &&& 0xF7#8 } ∧
    exec .sed s = .next { s with pc := s.pc + 1, p := s.p ||| 0x08#8 } ∧
    exec .nop s = .next { s with pc := s.pc + 1 }

/-- R171, R183: BRK pushes the address of the next byte, high byte first, then `P` with bits 4 and 5
set, sets I and takes `PC` from `0xFFFE`; all else is kept. -/
def Obligations.BrkEntersTheHandler : Prop :=
  ∀ s : State, Memory.wf 0x2000 s.ram = true →
    ∃ m, exec .brk s = .next { s with
        ram := m
        s := s.s + 3
        p := s.p ||| 0x04#8
        pc := word16 (Memory.read s.par.rom 0x7FFF) (Memory.read s.par.rom 0x7FFE) } ∧
      ∀ k, Memory.read m k =
        if k = 0x0100 + s.s.toNat then hiByte (s.pc + 1)
        else if k = 0x0100 + (s.s + 1).toNat then loByte (s.pc + 1)
        else if k = 0x0100 + (s.s + 2).toNat then s.p ||| 0x30#8
        else Memory.read s.ram k

/-- R172: RTI pulls `P` as PLP does, then `PC` with no increment. -/
def Obligations.RtiRestoresStatusAndPc : Prop :=
  ∀ s : State, exec .rti s = .next { s with
    s := s.s - 3
    p := (Memory.read s.ram (0x0100 + (s.s - 1).toNat) ||| 0x20#8) &&& 0xEF#8
    pc := word16 (Memory.read s.ram (0x0100 + (s.s - 3).toNat)) (Memory.read s.ram (0x0100 + (s.s - 2).toNat)) }

/-! ## Frames and whole-machine rules -/

/-- R82 (95_test_vectors.md section 4): outside the control-flow mnemonics `PC` ends past the bytes of
the instruction. -/
def Obligations.PcAdvancesByTheLength : Prop :=
  ∀ (i : Instr) (s t : State), i.mnemonic ∉ pcWriters → exec i s = .next t →
    t.pc = s.pc + BitVec.ofNat 16 (encode i).length

/-- R10, R11, R17, R19: which instruction can write `A`, `X`, `Y`, `S`; none writes the run state or
the parameters, ROM among them. -/
def Obligations.RegistersAreWrittenOnlyByTheirWriters : Prop :=
  ∀ (i : Instr) (s t : State), exec i s = .next t →
    (i.mnemonic ∉ accumulatorWriters → i.form ≠ .accumulator → t.a = s.a) ∧
    (i.mnemonic ∉ xWriters → t.x = s.x) ∧ (i.mnemonic ∉ yWriters → t.y = s.y) ∧
    (i.mnemonic ∉ stackPointerWriters → t.s = s.s) ∧ t.run = s.run ∧ t.par = s.par

/-- 10_state.md section 6: which instruction can write which flag. -/
def Obligations.FlagsAreWrittenOnlyByTheirWriters : Prop :=
  ∀ (i : Instr) (s t : State) (f : Flag), exec i s = .next t → i.mnemonic ∉ flagWriters f →
    getFlag f t.p = getFlag f s.p

/-- The memory frame of everything that neither stores to its operand nor pushes, the accumulator forms
of the shifts among it: no byte changes and nothing is output. -/
def Obligations.NonStoringInstructionsKeepMemory : Prop :=
  ∀ (i : Instr) (s t : State), exec i s = .next t →
    (i.mnemonic ∉ operandStores ++ pushMnemonics ∨ i.form = .accumulator) →
    (∀ b, peek t b = peek s b) ∧ t.output = s.output

/-- R33, R39, R93 to R95, R119, R120, R134 to R137: the memory frame of the storing forms, at the
address the resolver gives. -/
def Obligations.OperandStoresChangeOneAddress : Prop :=
  ∀ (i : Instr) (s t u : State) (a : Addr), i.mnemonic ∈ operandStores → resolve i.form s = some (.addr a, u) →
    exec i s = .next t →
    (∀ b, b ≠ a → peek t b = peek s b) ∧ (0x2000 ≤ a.toNat → ∀ b, peek t b = peek s b) ∧
    (a ≠ 0x2000#16 → t.output = s.output) ∧ (a = 0x2000#16 → ∃ v, t.output = s.output ++ [v])

/-- R78, R80, R160, R161, R150, R171: the memory frame of the pushes. -/
def Obligations.PushesChangeOnlyTheStackBytes : Prop :=
  ∀ (i : Instr) (s t : State) (b : Addr), exec i s = .next t → i.mnemonic ∈ pushMnemonics →
    b ≠ stackAddr s.s → (i.mnemonic = .jsr ∨ i.mnemonic = .brk → b ≠ stackAddr (s.s + 1)) →
    (i.mnemonic = .brk → b ≠ stackAddr (s.s + 2)) → peek t b = peek s b ∧ t.output = s.output

/-! ## Invariants of the step -/

/-- The invariant holds after reset, for every well-formed choice of the parameters. -/
def Obligations.ResetEstablishesTheInvariant : Prop :=
  ∀ par : Params, paramsWf par → (State.ofParams par).Inv

/-- R14, R18, R19, R22: every step keeps memory in its declared form and size, `P.B` at 0, and the input
an end piece of `INPUT`. -/
def Obligations.StepKeepsTheInvariant : Prop :=
  ∀ s t : State, s.Inv → step s = .next t → t.Inv

/-- R19, R20, R42: a step never changes the parameters (program storage among them), only appends to the
output and only takes input from its front. -/
def Obligations.StepOnlyExtendsTheConsoleHistory : Prop :=
  ∀ s t : State, step s = .next t → t.par = s.par ∧ s.output <+: t.output ∧ inputTail t.input s.input

/-- R14: bits 4 and 5 of the register cannot be observed: two states that differ in them alone stay so
through every step, and stop, fault or wait together. -/
def Obligations.BreakAndUnusedBitsAreUnobservable : Prop :=
  ∀ (s : State) (q : Byte), s.p &&& 0xCF#8 = q &&& 0xCF#8 → agreeingResults 0x30#8 (step s) (step (s.setP q))

/-- R24, R113: but for the pushes of PHP and BRK, no instruction reads I or D. -/
def Obligations.InterruptAndDecimalAreReadOnlyByPushes : Prop :=
  ∀ (i : Instr) (s : State) (q : Byte), i ≠ .php → i ≠ .brk → s.p &&& 0xC3#8 = q &&& 0xC3#8 →
    agreeingResults 0x3C#8 (exec i s) (exec i (s.setP q))

/-- R3, R34: with an infinite `INPUT` no run ever waits for the console, however long it is, and what is
left of the input stays infinite. How an endless input is held is the model's choice, log entry 16. -/
def Obligations.EndlessInputNeverWaits : Prop :=
  ∀ (k : Nat) (s : State), s.input.endless ≠ none →
    Host.Core.run Sys2Proof.core k s ≠ .fault .consoleWait ∧
      ∀ t : State, Host.Core.run Sys2Proof.core k s = .next t → t.input.endless ≠ none
end

