-- ==== Sys2Proof/Laws/Bits.lean ====
section
/-! SUPPORT. The halves of a 16-bit word, and where a page-wrapped read finds its high byte
(spec/20_memory.md R35 to R37). -/

namespace Sys2Proof.Machine

theorem getLsbD_word16 (h l : Byte) (k : Nat) :
    (word16 h l).getLsbD k = if k < 8 then l.getLsbD k else h.getLsbD (k - 8) := by
  rw [word16, BitVec.getLsbD_append]

theorem getLsbD_loByte (w : Addr) {k : Nat} (hk : k < 8) : (loByte w).getLsbD k = w.getLsbD k := by
  rw [loByte, BitVec.getLsbD_extractLsb', Nat.zero_add, decide_eq_true hk, Bool.true_and]

theorem getLsbD_hiByte (w : Addr) {k : Nat} (hk : k < 8) : (hiByte w).getLsbD k = w.getLsbD (8 + k) := by
  rw [hiByte, BitVec.getLsbD_extractLsb', decide_eq_true hk, Bool.true_and]

@[simp] theorem loByte_word16 (h l : Byte) : loByte (word16 h l) = l := by
  apply BitVec.eq_of_getLsbD_eq
  intro k hk
  rw [getLsbD_loByte _ hk, getLsbD_word16, if_pos hk]

@[simp] theorem hiByte_word16 (h l : Byte) : hiByte (word16 h l) = h := by
  apply BitVec.eq_of_getLsbD_eq
  intro k hk
  rw [getLsbD_hiByte _ hk, getLsbD_word16, if_neg (by omega), Nat.add_sub_cancel_left]

@[simp] theorem word16_bytes (w : Addr) : word16 (hiByte w) (loByte w) = w := by
  apply BitVec.eq_of_getLsbD_eq
  intro k hk
  rw [getLsbD_word16]
  by_cases h8 : k < 8
  · rw [if_pos h8, getLsbD_loByte _ h8]
  · rw [if_neg h8, getLsbD_hiByte _ (by omega)]
    congr 1
    omega

theorem loByte_add_one (a : Addr) : loByte (a + 1) = loByte a + 1 := by
  have hl : ∀ w : Addr, loByte w = w.setWidth 8 := by
    intro w
    apply BitVec.eq_of_getLsbD_eq
    intro k hk
    rw [getLsbD_loByte _ hk, BitVec.getLsbD_setWidth, decide_eq_true hk, Bool.true_and]
  rw [hl, hl, BitVec.setWidth_add _ _ (by omega)]
  rfl

/-- The high byte of a page-wrapped read comes from the same page, one byte on (20_memory.md R36). -/
theorem bugHighAddr_eq (a : Addr) : bugHighAddr a = word16 (hiByte a) (loByte a + 1) := by
  apply BitVec.eq_of_getLsbD_eq
  intro k hk
  rw [bugHighAddr, BitVec.getLsbD_or, BitVec.getLsbD_and, BitVec.getLsbD_and, getLsbD_word16]
  by_cases h8 : k < 8
  · rw [if_pos h8, ← loByte_add_one, getLsbD_loByte _ h8]
    interval_cases k <;> simp
  · rw [if_neg h8, getLsbD_hiByte _ (by omega), show 8 + (k - 8) = k by omega]
    interval_cases k <;> simp at h8 ⊢

theorem zext16_eq_word16 (z : Byte) : zext16 z = word16 0 z := by
  apply BitVec.eq_of_getLsbD_eq
  intro k hk
  rw [zext16, BitVec.getLsbD_setWidth, decide_eq_true hk, Bool.true_and, getLsbD_word16]
  by_cases h8 : k < 8
  · rw [if_pos h8]
  · rw [if_neg h8, BitVec.getLsbD_of_ge _ _ (by omega)]
    exact (BitVec.getLsbD_zero).symm

theorem bugHighAddr_zext16 (z : Byte) : bugHighAddr (zext16 z) = zext16 (z + 1) := by
  rw [bugHighAddr_eq, zext16_eq_word16, zext16_eq_word16, hiByte_word16, loByte_word16]

theorem bugHighAddr_ne (a : Addr) : bugHighAddr a ≠ a := by
  intro h
  have h1 := congrArg loByte h
  rw [bugHighAddr_eq, loByte_word16] at h1
  simp at h1

end Sys2Proof.Machine
end

