-- ==== Sys2Proof/Laws/Console.lean ====
section
/-! SUPPORT. What taking a byte from the input sequence can do, and its tails. -/

namespace Sys2Proof.Machine

/-- Only the empty sequence has no next byte. -/
theorem nextInput_none {i : InputSeq} : nextInput i = none ↔ i = .empty := by
  obtain ⟨given, endless⟩ := i
  cases given <;> cases endless <;> simp [nextInput, InputSeq.empty]

@[simp] theorem nextInput_cons (b : Byte) (rest : List Byte) (e : Option Endless) :
    nextInput ⟨b :: rest, e⟩ = some (b, ⟨rest, e⟩) := rfl

@[simp] theorem nextInput_endless (e : Endless) :
    nextInput ⟨[], some e⟩ = some (Config.endlessByte e.stream e.pos, ⟨[], some { e with pos := e.pos + 1 }⟩) := rfl

@[simp] theorem nextInput_empty : nextInput .empty = none := rfl

@[simp] theorem nextInput_prepend (b : Byte) (i : InputSeq) : nextInput (prependInput b i) = some (b, i) := rfl

/-- Taking a byte keeps an endless sequence endless and a finite one finite. -/
theorem nextInput_endless_isSome {i r : InputSeq} {b : Byte} (h : nextInput i = some (b, r)) :
    r.endless.isSome = i.endless.isSome := by
  obtain ⟨given, endless⟩ := i
  cases given <;> cases endless <;> simp [nextInput] at h <;> simp [← h.2]

/-- An endless sequence is never empty. -/
theorem ne_empty_of_endless {i : InputSeq} (h : i.endless.isSome = true) : i ≠ .empty := by
  rintro rfl
  simp [InputSeq.empty] at h

theorem inputAfter_add {m n : Nat} {i j k : InputSeq} (h : inputAfter m i = some j) (g : inputAfter n j = some k) :
    inputAfter (m + n) i = some k := by
  induction m generalizing i with
  | zero => simp_all [inputAfter]
  | succ m ih =>
    rw [Nat.add_right_comm]
    simp only [inputAfter] at h ⊢
    split at h
    · simp at h
    · exact ih h

theorem inputAfter_endless {n : Nat} {i r : InputSeq} (h : inputAfter n i = some r) :
    r.endless.isSome = i.endless.isSome := by
  induction n generalizing i with
  | zero => simp_all [inputAfter]
  | succ n ih =>
    simp only [inputAfter] at h
    split at h
    · simp at h
    · rename_i hb
      exact (ih h).trans (nextInput_endless_isSome hb)

theorem inputTail_refl (i : InputSeq) : inputTail i i := ⟨0, rfl⟩

theorem inputTail_trans {i j k : InputSeq} : inputTail k j → inputTail j i → inputTail k i
  | ⟨_, h⟩, ⟨_, g⟩ => ⟨_, inputAfter_add g h⟩

theorem inputTail_next {i r : InputSeq} {b : Byte} (h : nextInput i = some (b, r)) : inputTail r i :=
  ⟨1, by simp [inputAfter, h]⟩

/-- A tail of an endless sequence is endless, one of a finite sequence finite. -/
theorem inputTail_endless {i r : InputSeq} : inputTail r i → r.endless.isSome = i.endless.isSome
  | ⟨_, h⟩ => inputAfter_endless h

end Sys2Proof.Machine
end

