-- ==== Sys2Proof/Laws/Decode.lean ====
section
/-! SUPPORT. Decoding by slot: what `decode` answers for each kind of slot, and that a slot found is a
row of the table. -/

namespace Sys2Proof

open Sys2Proof.Machine

theorem decode_noOperand {opc : Byte} {i : Instr} (h : slotOf opc = some (.noOperand i)) (rest : List Byte) :
    decode (opc :: rest) = .instr i rest := by
  simp [decode, h]

theorem decode_byteOperand {opc : Byte} {mk : Byte → Instr} (h : slotOf opc = some (.byteOperand mk)) (b : Byte)
    (rest : List Byte) : decode (opc :: b :: rest) = .instr (mk b) rest := by
  simp [decode, h]

/-- The halves of an address, low byte first, decode to the address (20_memory.md R37). -/
theorem decode_wordOperand {opc : Byte} {mk : Addr → Instr} (h : slotOf opc = some (.wordOperand mk)) (a : Addr)
    (rest : List Byte) : decode (opc :: loByte a :: hiByte a :: rest) = .instr (mk a) rest := by
  simp [decode, h]

theorem decode_undefined {opc : Byte} (h : slotOf opc = none) (rest : List Byte) :
    decode (opc :: rest) = .undefinedOpcode opc := by
  simp [decode, h]

/-- An opcode is undefined exactly when it has no length (30_encoding.md R54, R56). -/
theorem slotOf_none {opc : Byte} : slotOf opc = none ↔ opcodeLength opc = none := by
  simp [opcodeLength]

theorem findSlot_mem {opc : Byte} {l : List (Byte × Slot)} {slot : Slot} (h : findSlot opc l = some slot) : (opc, slot) ∈ l := by
  induction l with
  | nil => simp [findSlot] at h
  | cons c l ih =>
    simp only [findSlot] at h
    split at h
    · rename_i hk
      simp only [Option.some.injEq] at h
      subst h
      simp [← hk]
    · exact List.mem_cons_of_mem _ (ih h)

theorem slotOf_mem {opc : Byte} {slot : Slot} (h : slotOf opc = some slot) : (opc, slot) ∈ opcodeTable := findSlot_mem h

/-- The bytes an opcode asks for decode to an instruction. -/
theorem decode_of_length {o : Byte} {bs : List Byte} {n : Nat} (h : opcodeLength o = some n) (hl : bs.length = n - 1) :
    ∃ i r, decode (o :: bs) = .instr i r := by
  simp only [opcodeLength, Option.map_eq_some_iff] at h
  obtain ⟨sl, hs, rfl⟩ := h
  cases sl with
  | noOperand i => exact ⟨_, _, decode_noOperand hs bs⟩
  | byteOperand mk =>
    match bs, hl with
    | [b], _ => exact ⟨_, _, decode_byteOperand hs b []⟩
  | wordOperand mk =>
    match bs, hl with
    | [b, c], _ => exact ⟨mk (word16 c b), [], by simp [decode, hs]⟩

end Sys2Proof
end

