-- ==== Sys2Proof/Laws/Flags.lean ====
section
/-! SUPPORT. The status register bit by bit: what each flag primitive leaves in each of the eight
bits. A byte is its eight flags (`flags_ext`). -/

namespace Sys2Proof.Machine

theorem getFlag_setFlag (f g : Flag) (e : Bool) (p : Byte) :
    getFlag g (setFlag f e p) = if g = f then e else getFlag g p := by
  cases e <;> cases f <;> cases g <;> simp [getFlag, setFlag, Flag.bit]

theorem flags_ext {p q : Byte} (h : ∀ f : Flag, getFlag f p = getFlag f q) : p = q := by
  apply BitVec.eq_of_getLsbD_eq
  intro k hk
  have h0 := h .c; have h1 := h .z; have h2 := h .i; have h3 := h .d
  have h4 := h .b; have h5 := h .u; have h6 := h .v; have h7 := h .n
  simp only [getFlag, Flag.bit] at h0 h1 h2 h3 h4 h5 h6 h7
  interval_cases k <;> assumption

@[simp] theorem getFlag_setFlag_same (f : Flag) (e : Bool) (p : Byte) : getFlag f (setFlag f e p) = e := by
  simp [getFlag_setFlag]

theorem getFlag_setFlag_ne {f g : Flag} (h : g ≠ f) (e : Bool) (p : Byte) : getFlag g (setFlag f e p) = getFlag g p := by
  simp [getFlag_setFlag, h]

theorem getFlag_setZN (g : Flag) (v p : Byte) :
    getFlag g (setZN v p) = if g = .n then v.getLsbD 7 else if g = .z then v == 0#8 else getFlag g p := by
  simp only [setZN, getFlag_setFlag]

theorem getFlag_pulledStatus (g : Flag) (v : Byte) :
    getFlag g (pulledStatus v) = if g = .u then true else if g = .b then false else getFlag g v := by
  cases g <;> simp [getFlag, pulledStatus, Flag.bit]

theorem getFlag_pushedStatus (g : Flag) (v : Byte) :
    getFlag g (pushedStatus v) = if g = .u ∨ g = .b then true else getFlag g v := by
  cases g <;> simp [getFlag, pushedStatus, Flag.bit]

theorem getFlag_cmp8 (g : Flag) (r m p : Byte) :
    getFlag g (cmp8 r m p) =
      if g = .n then (r - m).getLsbD 7 else if g = .z then r == m else if g = .c then decide (m.toNat ≤ r.toNat) else getFlag g p := by
  simp only [cmp8, getFlag_setFlag]

theorem getFlag_bitFlags (g : Flag) (a m p : Byte) :
    getFlag g (bitFlags a m p) =
      if g = .v then m.getLsbD 6 else if g = .n then m.getLsbD 7 else if g = .z then (a &&& m) == 0#8 else getFlag g p := by
  simp only [bitFlags, getFlag_setFlag]

end Sys2Proof.Machine
end

