-- ==== Sys2Proof/Laws/Memory.lean ====
section
/-! SUPPORT. The laws of the sparse memory: read after write, and the canonical form is kept by every
operation; the loader's image reads back byte by byte. -/

namespace Sys2Proof.Machine

theorem Memory.wfFrom_mono {size lo lo' : Nat} (m : Memory) (hlo : lo' ≤ lo) (h : Memory.wfFrom size lo m = true) :
    Memory.wfFrom size lo' m = true := by
  cases m with
  | nil => rfl
  | cons c m =>
    simp only [Memory.wfFrom, Bool.and_eq_true, decide_eq_true_eq] at h ⊢
    exact ⟨⟨⟨le_trans hlo h.1.1.1, h.1.1.2⟩, h.1.2⟩, h.2⟩

/-- Below the first key the list can hold, every key is unlisted. -/
theorem Memory.read_below {size lo : Nat} (m : Memory) (h : Memory.wfFrom size lo m = true) {k : Nat} (hk : k < lo) :
    Memory.read m k = Memory.unlisted := by
  induction m generalizing lo with
  | nil => rfl
  | cons c m ih =>
    simp only [Memory.wfFrom, Bool.and_eq_true, decide_eq_true_eq] at h
    have hne : c.1 ≠ k := by omega
    simp only [Memory.read, hne, if_false]
    exact ih h.2 (by omega)

/-- Keys at or above the size are unlisted. -/
theorem Memory.read_above {size lo : Nat} (m : Memory) (h : Memory.wfFrom size lo m = true) {k : Nat} (hk : size ≤ k) :
    Memory.read m k = Memory.unlisted := by
  induction m generalizing lo with
  | nil => rfl
  | cons c m ih =>
    simp only [Memory.wfFrom, Bool.and_eq_true, decide_eq_true_eq] at h
    have hne : c.1 ≠ k := by omega
    simp only [Memory.read, hne, if_false]
    exact ih h.2

/-- A write keeps the canonical form. -/
theorem Memory.write_wfFrom {size lo : Nat} (m : Memory) (h : Memory.wfFrom size lo m = true) {k : Nat} (hlo : lo ≤ k)
    (hk : k < size) (v : Byte) : Memory.wfFrom size lo (Memory.write m k v) = true := by
  induction m generalizing lo with
  | nil =>
    by_cases hv : v = Memory.unlisted <;> simp [Memory.write, Memory.wfFrom, hv, hlo, hk]
  | cons c m ih =>
    have h0 := h
    simp only [Memory.wfFrom, Bool.and_eq_true, decide_eq_true_eq] at h
    obtain ⟨⟨⟨h1, h2⟩, h3⟩, h4⟩ := h
    by_cases hlt : k < c.1
    · by_cases hv : v = Memory.unlisted
      · simp [Memory.write, hlt, hv, h0]
      · have h5 : k + 1 ≤ c.1 := hlt
        simp [Memory.write, Memory.wfFrom, hlt, hv, hlo, hk, h2, h3, h4, h5]
    · by_cases heq : k = c.1
      · by_cases hv : v = Memory.unlisted
        · have : Memory.wfFrom size lo m = true := Memory.wfFrom_mono m (by omega) h4
          simp [Memory.write, heq, hv, this]
        · subst heq
          simp [Memory.write, Memory.wfFrom, hv, h1, h2, h4]
      · have h5 := ih h4 (show c.1 + 1 ≤ k by omega)
        simp [Memory.write, Memory.wfFrom, hlt, heq, h1, h2, h3, h5]

theorem Memory.write_wf {size : Nat} {m : Memory} (h : Memory.wf size m = true) {k : Nat} (hk : k < size) (v : Byte) :
    Memory.wf size (Memory.write m k v) = true :=
  Memory.write_wfFrom m h (Nat.zero_le k) hk v

/-- In canonical form a read after a write to the same key gives the value written. Without it the
list may repeat a key; the law for lists in any form is `read_write_ne`. -/
theorem Memory.read_write_same {size lo : Nat} (m : Memory) (h : Memory.wfFrom size lo m = true) (k : Nat) (v : Byte) :
    Memory.read (Memory.write m k v) k = v := by
  induction m generalizing lo with
  | nil =>
    by_cases hv : v = Memory.unlisted <;> simp [Memory.write, Memory.read, hv]
  | cons c m ih =>
    have h0 := h
    simp only [Memory.wfFrom, Bool.and_eq_true, decide_eq_true_eq] at h
    obtain ⟨⟨⟨h1, h2⟩, h3⟩, h4⟩ := h
    by_cases hlt : k < c.1
    · by_cases hv : v = Memory.unlisted
      · have hne : c.1 ≠ k := by omega
        simp [Memory.write, hlt, hv, Memory.read, hne, Memory.read_below m h4 (show k < c.1 + 1 by omega)]
      · simp [Memory.write, hlt, hv, Memory.read]
    · by_cases heq : k = c.1
      · by_cases hv : v = Memory.unlisted
        · simp [Memory.write, heq, hv, Memory.read_below m h4 (show c.1 < c.1 + 1 by omega)]
        · simp [Memory.write, heq, hv, Memory.read]
      · have hne : c.1 ≠ k := fun e => heq e.symm
        simp [Memory.write, hlt, heq, Memory.read, hne, ih h4]

/-- A write leaves every other key alone. -/
theorem Memory.read_write_ne (m : Memory) {k j : Nat} (hne : j ≠ k) (v : Byte) :
    Memory.read (Memory.write m k v) j = Memory.read m j := by
  induction m with
  | nil =>
    by_cases hv : v = Memory.unlisted <;> simp [Memory.write, Memory.read, hv, Ne.symm hne]
  | cons c m ih =>
    by_cases hlt : k < c.1
    · by_cases hv : v = Memory.unlisted <;> simp [Memory.write, hlt, hv, Memory.read, Ne.symm hne]
    · by_cases heq : k = c.1
      · have hcj : c.1 ≠ j := fun e => hne (by rw [← e, heq])
        by_cases hv : v = Memory.unlisted <;> simp [Memory.write, heq, hv, Memory.read, hcj]
      · by_cases hcj : c.1 = j
        · simp only [Memory.write, if_neg hlt, if_neg heq, Memory.read, if_pos hcj]
        · simp only [Memory.write, if_neg hlt, if_neg heq, Memory.read, if_neg hcj, ih]

theorem Memory.ofBytes_wfFrom {size : Nat} (bs : List Byte) {k : Nat} (h : k + bs.length ≤ size) :
    Memory.wfFrom size k (Memory.ofBytes k bs) = true := by
  induction bs generalizing k with
  | nil => rfl
  | cons v vs ih =>
    simp only [List.length_cons] at h
    have hr : Memory.wfFrom size (k + 1) (Memory.ofBytes (k + 1) vs) = true := ih (by omega)
    by_cases hv : v = Memory.unlisted
    · simpa [Memory.ofBytes, hv] using Memory.wfFrom_mono _ (Nat.le_succ k) hr
    · have hk : k < size := by omega
      simp [Memory.ofBytes, hv, Memory.wfFrom, hk, hr]

/-- A loaded image is in canonical form. -/
theorem loadImage_wf {bs : List Byte} {m : Memory} (h : loadImage bs = some m) : Memory.wf Config.romSize m = true := by
  by_cases hl : bs.length ≤ Config.romSize
  · rw [loadImage, if_pos hl, Option.some.injEq] at h
    subst h
    exact Memory.ofBytes_wfFrom bs (by omega)
  · simp [loadImage, hl] at h

theorem Memory.read_ofBytes (bs : List Byte) (k j : Nat) :
    Memory.read (Memory.ofBytes k bs) (k + j) = bs.getD j Memory.unlisted := by
  induction bs generalizing k j with
  | nil => simp [Memory.ofBytes, Memory.read]
  | cons v vs ih =>
    cases j with
    | zero =>
      by_cases hv : v = Memory.unlisted
      · have := Memory.read_below (size := k + 1 + vs.length) _ (Memory.ofBytes_wfFrom vs (le_refl _)) (show k < k + 1 by omega)
        simp [Memory.ofBytes, hv, this]
      · simp [Memory.ofBytes, hv, Memory.read]
    | succ j =>
      have h1 : k ≠ k + (j + 1) := by omega
      have h2 : k + (j + 1) = k + 1 + j := by omega
      by_cases hv : v = Memory.unlisted
      · simpa [Memory.ofBytes, hv, h2] using ih (k + 1) j
      · have : Memory.read ((k, v) :: Memory.ofBytes (k + 1) vs) (k + (j + 1)) = vs.getD j Memory.unlisted := by
          rw [Memory.read, if_neg h1, h2]
          exact ih (k + 1) j
        simpa [Memory.ofBytes, hv] using this

end Sys2Proof.Machine
end

