-- ==== Sys2Proof/Laws/State.lean ====
section
/-! SUPPORT. One lemma per field per update of the state, so that no later proof unfolds a record
update; and the same for the three register operations built on them. -/

namespace Sys2Proof.Machine

namespace State

@[simp] theorem setPc_pc (v : Addr) (s : State) : (s.setPc v).pc = v := rfl
@[simp] theorem setPc_a (v : Addr) (s : State) : (s.setPc v).a = s.a := rfl
@[simp] theorem setPc_x (v : Addr) (s : State) : (s.setPc v).x = s.x := rfl
@[simp] theorem setPc_y (v : Addr) (s : State) : (s.setPc v).y = s.y := rfl
@[simp] theorem setPc_s (v : Addr) (s : State) : (s.setPc v).s = s.s := rfl
@[simp] theorem setPc_p (v : Addr) (s : State) : (s.setPc v).p = s.p := rfl
@[simp] theorem setPc_run (v : Addr) (s : State) : (s.setPc v).run = s.run := rfl
@[simp] theorem setPc_ram (v : Addr) (s : State) : (s.setPc v).ram = s.ram := rfl
@[simp] theorem setPc_input (v : Addr) (s : State) : (s.setPc v).input = s.input := rfl
@[simp] theorem setPc_output (v : Addr) (s : State) : (s.setPc v).output = s.output := rfl
@[simp] theorem setPc_par (v : Addr) (s : State) : (s.setPc v).par = s.par := rfl
@[simp] theorem setA_pc (v : Byte) (s : State) : (s.setA v).pc = s.pc := rfl
@[simp] theorem setA_a (v : Byte) (s : State) : (s.setA v).a = v := rfl
@[simp] theorem setA_x (v : Byte) (s : State) : (s.setA v).x = s.x := rfl
@[simp] theorem setA_y (v : Byte) (s : State) : (s.setA v).y = s.y := rfl
@[simp] theorem setA_s (v : Byte) (s : State) : (s.setA v).s = s.s := rfl
@[simp] theorem setA_p (v : Byte) (s : State) : (s.setA v).p = s.p := rfl
@[simp] theorem setA_run (v : Byte) (s : State) : (s.setA v).run = s.run := rfl
@[simp] theorem setA_ram (v : Byte) (s : State) : (s.setA v).ram = s.ram := rfl
@[simp] theorem setA_input (v : Byte) (s : State) : (s.setA v).input = s.input := rfl
@[simp] theorem setA_output (v : Byte) (s : State) : (s.setA v).output = s.output := rfl
@[simp] theorem setA_par (v : Byte) (s : State) : (s.setA v).par = s.par := rfl
@[simp] theorem setX_pc (v : Byte) (s : State) : (s.setX v).pc = s.pc := rfl
@[simp] theorem setX_a (v : Byte) (s : State) : (s.setX v).a = s.a := rfl
@[simp] theorem setX_x (v : Byte) (s : State) : (s.setX v).x = v := rfl
@[simp] theorem setX_y (v : Byte) (s : State) : (s.setX v).y = s.y := rfl
@[simp] theorem setX_s (v : Byte) (s : State) : (s.setX v).s = s.s := rfl
@[simp] theorem setX_p (v : Byte) (s : State) : (s.setX v).p = s.p := rfl
@[simp] theorem setX_run (v : Byte) (s : State) : (s.setX v).run = s.run := rfl
@[simp] theorem setX_ram (v : Byte) (s : State) : (s.setX v).ram = s.ram := rfl
@[simp] theorem setX_input (v : Byte) (s : State) : (s.setX v).input = s.input := rfl
@[simp] theorem setX_output (v : Byte) (s : State) : (s.setX v).output = s.output := rfl
@[simp] theorem setX_par (v : Byte) (s : State) : (s.setX v).par = s.par := rfl
@[simp] theorem setY_pc (v : Byte) (s : State) : (s.setY v).pc = s.pc := rfl
@[simp] theorem setY_a (v : Byte) (s : State) : (s.setY v).a = s.a := rfl
@[simp] theorem setY_x (v : Byte) (s : State) : (s.setY v).x = s.x := rfl
@[simp] theorem setY_y (v : Byte) (s : State) : (s.setY v).y = v := rfl
@[simp] theorem setY_s (v : Byte) (s : State) : (s.setY v).s = s.s := rfl
@[simp] theorem setY_p (v : Byte) (s : State) : (s.setY v).p = s.p := rfl
@[simp] theorem setY_run (v : Byte) (s : State) : (s.setY v).run = s.run := rfl
@[simp] theorem setY_ram (v : Byte) (s : State) : (s.setY v).ram = s.ram := rfl
@[simp] theorem setY_input (v : Byte) (s : State) : (s.setY v).input = s.input := rfl
@[simp] theorem setY_output (v : Byte) (s : State) : (s.setY v).output = s.output := rfl
@[simp] theorem setY_par (v : Byte) (s : State) : (s.setY v).par = s.par := rfl
@[simp] theorem setS_pc (v : Byte) (s : State) : (s.setS v).pc = s.pc := rfl
@[simp] theorem setS_a (v : Byte) (s : State) : (s.setS v).a = s.a := rfl
@[simp] theorem setS_x (v : Byte) (s : State) : (s.setS v).x = s.x := rfl
@[simp] theorem setS_y (v : Byte) (s : State) : (s.setS v).y = s.y := rfl
@[simp] theorem setS_s (v : Byte) (s : State) : (s.setS v).s = v := rfl
@[simp] theorem setS_p (v : Byte) (s : State) : (s.setS v).p = s.p := rfl
@[simp] theorem setS_run (v : Byte) (s : State) : (s.setS v).run = s.run := rfl
@[simp] theorem setS_ram (v : Byte) (s : State) : (s.setS v).ram = s.ram := rfl
@[simp] theorem setS_input (v : Byte) (s : State) : (s.setS v).input = s.input := rfl
@[simp] theorem setS_output (v : Byte) (s : State) : (s.setS v).output = s.output := rfl
@[simp] theorem setS_par (v : Byte) (s : State) : (s.setS v).par = s.par := rfl
@[simp] theorem setP_pc (v : Byte) (s : State) : (s.setP v).pc = s.pc := rfl
@[simp] theorem setP_a (v : Byte) (s : State) : (s.setP v).a = s.a := rfl
@[simp] theorem setP_x (v : Byte) (s : State) : (s.setP v).x = s.x := rfl
@[simp] theorem setP_y (v : Byte) (s : State) : (s.setP v).y = s.y := rfl
@[simp] theorem setP_s (v : Byte) (s : State) : (s.setP v).s = s.s := rfl
@[simp] theorem setP_p (v : Byte) (s : State) : (s.setP v).p = v := rfl
@[simp] theorem setP_run (v : Byte) (s : State) : (s.setP v).run = s.run := rfl
@[simp] theorem setP_ram (v : Byte) (s : State) : (s.setP v).ram = s.ram := rfl
@[simp] theorem setP_input (v : Byte) (s : State) : (s.setP v).input = s.input := rfl
@[simp] theorem setP_output (v : Byte) (s : State) : (s.setP v).output = s.output := rfl
@[simp] theorem setP_par (v : Byte) (s : State) : (s.setP v).par = s.par := rfl
@[simp] theorem setRun_pc (v : RunState) (s : State) : (s.setRun v).pc = s.pc := rfl
@[simp] theorem setRun_a (v : RunState) (s : State) : (s.setRun v).a = s.a := rfl
@[simp] theorem setRun_x (v : RunState) (s : State) : (s.setRun v).x = s.x := rfl
@[simp] theorem setRun_y (v : RunState) (s : State) : (s.setRun v).y = s.y := rfl
@[simp] theorem setRun_s (v : RunState) (s : State) : (s.setRun v).s = s.s := rfl
@[simp] theorem setRun_p (v : RunState) (s : State) : (s.setRun v).p = s.p := rfl
@[simp] theorem setRun_run (v : RunState) (s : State) : (s.setRun v).run = v := rfl
@[simp] theorem setRun_ram (v : RunState) (s : State) : (s.setRun v).ram = s.ram := rfl
@[simp] theorem setRun_input (v : RunState) (s : State) : (s.setRun v).input = s.input := rfl
@[simp] theorem setRun_output (v : RunState) (s : State) : (s.setRun v).output = s.output := rfl
@[simp] theorem setRun_par (v : RunState) (s : State) : (s.setRun v).par = s.par := rfl
@[simp] theorem setRam_pc (v : List Host.Cell) (s : State) : (s.setRam v).pc = s.pc := rfl
@[simp] theorem setRam_a (v : List Host.Cell) (s : State) : (s.setRam v).a = s.a := rfl
@[simp] theorem setRam_x (v : List Host.Cell) (s : State) : (s.setRam v).x = s.x := rfl
@[simp] theorem setRam_y (v : List Host.Cell) (s : State) : (s.setRam v).y = s.y := rfl
@[simp] theorem setRam_s (v : List Host.Cell) (s : State) : (s.setRam v).s = s.s := rfl
@[simp] theorem setRam_p (v : List Host.Cell) (s : State) : (s.setRam v).p = s.p := rfl
@[simp] theorem setRam_run (v : List Host.Cell) (s : State) : (s.setRam v).run = s.run := rfl
@[simp] theorem setRam_ram (v : List Host.Cell) (s : State) : (s.setRam v).ram = v := rfl
@[simp] theorem setRam_input (v : List Host.Cell) (s : State) : (s.setRam v).input = s.input := rfl
@[simp] theorem setRam_output (v : List Host.Cell) (s : State) : (s.setRam v).output = s.output := rfl
@[simp] theorem setRam_par (v : List Host.Cell) (s : State) : (s.setRam v).par = s.par := rfl
@[simp] theorem setInput_pc (v : InputSeq) (s : State) : (s.setInput v).pc = s.pc := rfl
@[simp] theorem setInput_a (v : InputSeq) (s : State) : (s.setInput v).a = s.a := rfl
@[simp] theorem setInput_x (v : InputSeq) (s : State) : (s.setInput v).x = s.x := rfl
@[simp] theorem setInput_y (v : InputSeq) (s : State) : (s.setInput v).y = s.y := rfl
@[simp] theorem setInput_s (v : InputSeq) (s : State) : (s.setInput v).s = s.s := rfl
@[simp] theorem setInput_p (v : InputSeq) (s : State) : (s.setInput v).p = s.p := rfl
@[simp] theorem setInput_run (v : InputSeq) (s : State) : (s.setInput v).run = s.run := rfl
@[simp] theorem setInput_ram (v : InputSeq) (s : State) : (s.setInput v).ram = s.ram := rfl
@[simp] theorem setInput_input (v : InputSeq) (s : State) : (s.setInput v).input = v := rfl
@[simp] theorem setInput_output (v : InputSeq) (s : State) : (s.setInput v).output = s.output := rfl
@[simp] theorem setInput_par (v : InputSeq) (s : State) : (s.setInput v).par = s.par := rfl
@[simp] theorem setOutput_pc (v : List Byte) (s : State) : (s.setOutput v).pc = s.pc := rfl
@[simp] theorem setOutput_a (v : List Byte) (s : State) : (s.setOutput v).a = s.a := rfl
@[simp] theorem setOutput_x (v : List Byte) (s : State) : (s.setOutput v).x = s.x := rfl
@[simp] theorem setOutput_y (v : List Byte) (s : State) : (s.setOutput v).y = s.y := rfl
@[simp] theorem setOutput_s (v : List Byte) (s : State) : (s.setOutput v).s = s.s := rfl
@[simp] theorem setOutput_p (v : List Byte) (s : State) : (s.setOutput v).p = s.p := rfl
@[simp] theorem setOutput_run (v : List Byte) (s : State) : (s.setOutput v).run = s.run := rfl
@[simp] theorem setOutput_ram (v : List Byte) (s : State) : (s.setOutput v).ram = s.ram := rfl
@[simp] theorem setOutput_input (v : List Byte) (s : State) : (s.setOutput v).input = s.input := rfl
@[simp] theorem setOutput_output (v : List Byte) (s : State) : (s.setOutput v).output = v := rfl
@[simp] theorem setOutput_par (v : List Byte) (s : State) : (s.setOutput v).par = s.par := rfl

end State

@[simp] theorem advance_pc (n : Nat) (s : State) : (advance n s).pc = s.pc + BitVec.ofNat 16 n := rfl
@[simp] theorem advance_a (n : Nat) (s : State) : (advance n s).a = s.a := rfl
@[simp] theorem advance_x (n : Nat) (s : State) : (advance n s).x = s.x := rfl
@[simp] theorem advance_y (n : Nat) (s : State) : (advance n s).y = s.y := rfl
@[simp] theorem advance_s (n : Nat) (s : State) : (advance n s).s = s.s := rfl
@[simp] theorem advance_p (n : Nat) (s : State) : (advance n s).p = s.p := rfl
@[simp] theorem advance_run (n : Nat) (s : State) : (advance n s).run = s.run := rfl
@[simp] theorem advance_ram (n : Nat) (s : State) : (advance n s).ram = s.ram := rfl
@[simp] theorem advance_input (n : Nat) (s : State) : (advance n s).input = s.input := rfl
@[simp] theorem advance_output (n : Nat) (s : State) : (advance n s).output = s.output := rfl
@[simp] theorem advance_par (n : Nat) (s : State) : (advance n s).par = s.par := rfl
@[simp] theorem writeFlag_pc (f : Flag) (e : Bool) (s : State) : (writeFlag f e s).pc = s.pc := rfl
@[simp] theorem writeFlag_a (f : Flag) (e : Bool) (s : State) : (writeFlag f e s).a = s.a := rfl
@[simp] theorem writeFlag_x (f : Flag) (e : Bool) (s : State) : (writeFlag f e s).x = s.x := rfl
@[simp] theorem writeFlag_y (f : Flag) (e : Bool) (s : State) : (writeFlag f e s).y = s.y := rfl
@[simp] theorem writeFlag_s (f : Flag) (e : Bool) (s : State) : (writeFlag f e s).s = s.s := rfl
@[simp] theorem writeFlag_p (f : Flag) (e : Bool) (s : State) : (writeFlag f e s).p = setFlag f e s.p := rfl
@[simp] theorem writeFlag_run (f : Flag) (e : Bool) (s : State) : (writeFlag f e s).run = s.run := rfl
@[simp] theorem writeFlag_ram (f : Flag) (e : Bool) (s : State) : (writeFlag f e s).ram = s.ram := rfl
@[simp] theorem writeFlag_input (f : Flag) (e : Bool) (s : State) : (writeFlag f e s).input = s.input := rfl
@[simp] theorem writeFlag_output (f : Flag) (e : Bool) (s : State) : (writeFlag f e s).output = s.output := rfl
@[simp] theorem writeFlag_par (f : Flag) (e : Bool) (s : State) : (writeFlag f e s).par = s.par := rfl
@[simp] theorem updateZN_pc (v : Byte) (s : State) : (updateZN v s).pc = s.pc := rfl
@[simp] theorem updateZN_a (v : Byte) (s : State) : (updateZN v s).a = s.a := rfl
@[simp] theorem updateZN_x (v : Byte) (s : State) : (updateZN v s).x = s.x := rfl
@[simp] theorem updateZN_y (v : Byte) (s : State) : (updateZN v s).y = s.y := rfl
@[simp] theorem updateZN_s (v : Byte) (s : State) : (updateZN v s).s = s.s := rfl
@[simp] theorem updateZN_p (v : Byte) (s : State) : (updateZN v s).p = setZN v s.p := rfl
@[simp] theorem updateZN_run (v : Byte) (s : State) : (updateZN v s).run = s.run := rfl
@[simp] theorem updateZN_ram (v : Byte) (s : State) : (updateZN v s).ram = s.ram := rfl
@[simp] theorem updateZN_input (v : Byte) (s : State) : (updateZN v s).input = s.input := rfl
@[simp] theorem updateZN_output (v : Byte) (s : State) : (updateZN v s).output = s.output := rfl
@[simp] theorem updateZN_par (v : Byte) (s : State) : (updateZN v s).par = s.par := rfl

/-- A state is its eleven fields. -/
theorem State.ext_fields {s t : State} (h1 : s.pc = t.pc) (h2 : s.a = t.a) (h3 : s.x = t.x) (h4 : s.y = t.y)
    (h5 : s.s = t.s) (h6 : s.p = t.p) (h7 : s.run = t.run) (h8 : s.ram = t.ram) (h9 : s.input = t.input)
    (h10 : s.output = t.output) (h11 : s.par = t.par) : s = t := by
  cases s
  cases t
  simp_all

end Sys2Proof.Machine
end

