-- ==== Sys2Proof/Laws/Ops.lean ====
section
/-! SUPPORT. What each operation over bus and stack can do, said once: the bus by region, the stack
unit in closed form (the stack page is RAM, so a stack access never waits), and the trap and its
return in closed form. -/

namespace Sys2Proof.Machine

/-! ## Regions -/

theorem regionOf_ram {a : Addr} : regionOf a = .ram ↔ a.toNat < 0x2000 := by
  unfold regionOf Config.ramSize
  split <;> [simp_all; split <;> simp_all]

theorem regionOf_io {a : Addr} : regionOf a = .io ↔ a = 0x2000#16 := by
  unfold regionOf Config.ramSize Config.ioAddr
  constructor
  · split <;> [simp; split <;> simp_all]
  · rintro rfl
    rfl

theorem regionOf_rom {a : Addr} : regionOf a = .rom ↔ 0x2000 < a.toNat := by
  unfold regionOf Config.ramSize Config.ioAddr
  constructor
  · split
    · simp
    · split
      · simp
      · rename_i h1 h2
        intro _
        have : a.toNat ≠ 0x2000 := fun h => h2 (BitVec.eq_of_toNat_eq h)
        omega
  · intro h
    rw [if_neg (by omega), if_neg]
    rintro rfl
    simp at h

/-- The stack address is `0x0100 + S`. -/
theorem stackAddr_toNat (sp : Byte) : (stackAddr sp).toNat = 0x100 + sp.toNat := by
  have h : (0x0100#16 &&& zext16 sp) = 0#16 := by
    apply BitVec.eq_of_getLsbD_eq
    intro k hk
    simp only [zext16, BitVec.getLsbD_and, BitVec.getLsbD_setWidth, BitVec.getLsbD_zero]
    by_cases h8 : k = 8
    · subst h8
      simp
    · have : (0x0100#16).getLsbD k = false := by
        interval_cases k <;> first | rfl | exact absurd rfl h8
      simp [this]
  have h2 : stackAddr sp = 0x0100#16 + zext16 sp := by
    rw [stackAddr, Config.stackPage, BitVec.add_eq_or_of_and_eq_zero _ _ h]
  have := sp.isLt
  rw [h2, BitVec.toNat_add, zext16, BitVec.toNat_setWidth]
  simp
  omega

theorem regionOf_stackAddr (sp : Byte) : regionOf (stackAddr sp) = .ram := by
  rw [regionOf_ram, stackAddr_toNat]
  have := sp.isLt
  omega

theorem regionOf_zext16 (z : Byte) : regionOf (zext16 z) = .ram := by
  rw [regionOf_ram, zext16, BitVec.toNat_setWidth]
  have := z.isLt
  omega

theorem stackAddr_inj {m n : Byte} : stackAddr m = stackAddr n ↔ m = n := by
  constructor
  · intro h
    have := congrArg BitVec.toNat h
    rw [stackAddr_toNat, stackAddr_toNat] at this
    exact BitVec.eq_of_toNat_eq (by omega)
  · rintro rfl
    rfl

/-! ## The bus -/

/-- A read that is not the console's gives the byte the address holds and changes nothing. -/
theorem busRead_peek {a : Addr} {s : State} {v : Byte} (h : peek s a = some v) : busRead a s = some (v, s) := by
  unfold peek at h
  unfold busRead
  split at h <;> simp_all

/-- Everything a bus read can do: it changes nothing, or it takes the first input byte. -/
theorem busRead_cases {a : Addr} {s t : State} {v : Byte} (h : busRead a s = some (v, t)) :
    (peek s a = some v ∧ t = s) ∨ (a = 0x2000#16 ∧ nextInput s.input = some (v, t.input) ∧ t = s.setInput t.input) := by
  unfold busRead at h
  split at h
  · rename_i hr
    simp only [Option.some.injEq, Prod.mk.injEq] at h
    exact .inl ⟨by simp [peek, hr, h.1], h.2.symm⟩
  · rename_i hr
    unfold ioRead at h
    split at h
    · simp at h
    · rename_i hin
      simp only [Option.some.injEq, Prod.mk.injEq] at h
      obtain ⟨rfl, rfl⟩ := h
      exact .inr ⟨regionOf_io.1 hr, by simpa using hin, rfl⟩
  · rename_i hr
    simp only [Option.some.injEq, Prod.mk.injEq] at h
    exact .inl ⟨by simp [peek, hr, h.1], h.2.symm⟩

/-- A bus read waits exactly at the console without input. -/
theorem busRead_none {a : Addr} {s : State} : busRead a s = none ↔ a = 0x2000#16 ∧ s.input = .empty := by
  unfold busRead
  split
  · rename_i hr
    have := regionOf_ram.1 hr
    simp only [reduceCtorEq, false_iff]
    rintro ⟨rfl, _⟩
    simp at this
  · rename_i hr
    have := regionOf_io.1 hr
    unfold ioRead
    split <;> simp_all [← nextInput_none]
  · rename_i hr
    have := regionOf_rom.1 hr
    simp only [reduceCtorEq, false_iff]
    rintro ⟨rfl, _⟩
    simp at this

theorem busRead_stackAddr (sp : Byte) (s : State) :
    busRead (stackAddr sp) s = some (Memory.read s.ram (stackAddr sp).toNat, s) := by
  simp [busRead, regionOf_stackAddr]

theorem busRead_zext16 (z : Byte) (s : State) : busRead (zext16 z) s = some (Memory.read s.ram (zext16 z).toNat, s) := by
  simp [busRead, regionOf_zext16]

theorem busWrite_stackAddr (sp v : Byte) (s : State) :
    busWrite (stackAddr sp) v s = s.setRam (Memory.write s.ram (stackAddr sp).toNat v) := by
  simp [busWrite, regionOf_stackAddr]

/-- Everything a bus write can do. -/
theorem busWrite_cases (a : Addr) (v : Byte) (s : State) :
    (regionOf a = .ram ∧ busWrite a v s = s.setRam (Memory.write s.ram a.toNat v)) ∨
      (a = 0x2000#16 ∧ busWrite a v s = s.setOutput (s.output ++ [v])) ∨ (regionOf a = .rom ∧ busWrite a v s = s) := by
  unfold busWrite ioWrite
  cases hr : regionOf a
  · exact .inl ⟨rfl, rfl⟩
  · exact .inr (.inl ⟨regionOf_io.1 hr, rfl⟩)
  · exact .inr (.inr ⟨rfl, rfl⟩)

section
variable (a : Addr) (v : Byte) (s : State)

@[simp] theorem busWrite_pc : (busWrite a v s).pc = s.pc := by
  obtain ⟨-, h⟩ | ⟨-, h⟩ | ⟨-, h⟩ := busWrite_cases a v s <;> rw [h] <;> simp
@[simp] theorem busWrite_a : (busWrite a v s).a = s.a := by
  obtain ⟨-, h⟩ | ⟨-, h⟩ | ⟨-, h⟩ := busWrite_cases a v s <;> rw [h] <;> simp
@[simp] theorem busWrite_x : (busWrite a v s).x = s.x := by
  obtain ⟨-, h⟩ | ⟨-, h⟩ | ⟨-, h⟩ := busWrite_cases a v s <;> rw [h] <;> simp
@[simp] theorem busWrite_y : (busWrite a v s).y = s.y := by
  obtain ⟨-, h⟩ | ⟨-, h⟩ | ⟨-, h⟩ := busWrite_cases a v s <;> rw [h] <;> simp
@[simp] theorem busWrite_s : (busWrite a v s).s = s.s := by
  obtain ⟨-, h⟩ | ⟨-, h⟩ | ⟨-, h⟩ := busWrite_cases a v s <;> rw [h] <;> simp
@[simp] theorem busWrite_p : (busWrite a v s).p = s.p := by
  obtain ⟨-, h⟩ | ⟨-, h⟩ | ⟨-, h⟩ := busWrite_cases a v s <;> rw [h] <;> simp
@[simp] theorem busWrite_run : (busWrite a v s).run = s.run := by
  obtain ⟨-, h⟩ | ⟨-, h⟩ | ⟨-, h⟩ := busWrite_cases a v s <;> rw [h] <;> simp
@[simp] theorem busWrite_input : (busWrite a v s).input = s.input := by
  obtain ⟨-, h⟩ | ⟨-, h⟩ | ⟨-, h⟩ := busWrite_cases a v s <;> rw [h] <;> simp
@[simp] theorem busWrite_par : (busWrite a v s).par = s.par := by
  obtain ⟨-, h⟩ | ⟨-, h⟩ | ⟨-, h⟩ := busWrite_cases a v s <;> rw [h] <;> simp

/-- A bus write only extends the output. -/
theorem busWrite_output : s.output <+: (busWrite a v s).output := by
  obtain ⟨-, h⟩ | ⟨-, h⟩ | ⟨-, h⟩ := busWrite_cases a v s <;> rw [h] <;> simp

/-- A bus write leaves every other address as it was, in any form of the memory. -/
theorem peek_busWrite_ne {b : Addr} (hne : b ≠ a) : peek (busWrite a v s) b = peek s b := by
  obtain ⟨-, h⟩ | ⟨-, h⟩ | ⟨-, h⟩ := busWrite_cases a v s
  · have hn : b.toNat ≠ a.toNat := fun e => hne (BitVec.eq_of_toNat_eq e)
    simp [h, peek, Memory.read_write_ne _ hn]
  · simp [h, peek]
  · rw [h]

/-- A bus write keeps RAM in canonical form. -/
theorem busWrite_wf (hs : Memory.wf Config.ramSize s.ram = true) : Memory.wf Config.ramSize (busWrite a v s).ram = true := by
  obtain ⟨hr, h⟩ | ⟨-, h⟩ | ⟨-, h⟩ := busWrite_cases a v s
  · rw [h]
    exact Memory.write_wf hs (regionOf_ram.1 hr) v
  · rwa [h]
  · rwa [h]

end

/-- Two bus reads in a row: what a 16-bit read can do. -/
theorem readPair_cases {lo hi w : Addr} {s t : State} (h : readPair lo hi s = some (w, t)) :
    ∃ l u g, busRead lo s = some (l, u) ∧ busRead hi u = some (g, t) ∧ w = word16 g l := by
  unfold readPair at h
  split at h
  · simp at h
  · rename_i l u hl
    split at h
    · simp at h
    · rename_i g u2 hg
      simp only [Option.some.injEq, Prod.mk.injEq] at h
      obtain ⟨rfl, rfl⟩ := h
      exact ⟨l, u, g, hl, hg, rfl⟩

theorem readPair_peek {lo hi : Addr} {s : State} {l g : Byte} (h1 : peek s lo = some l) (h2 : peek s hi = some g) :
    readPair lo hi s = some (word16 g l, s) := by
  simp [readPair, busRead_peek h1, busRead_peek h2]

/-! ## The stack unit -/

theorem push8_eq (v : Byte) (s : State) :
    push8 v s = (s.setRam (Memory.write s.ram (stackAddr s.s).toNat v)).setS (s.s + 1) := by
  simp [push8, busWrite_stackAddr]

theorem pull8_eq (s : State) :
    pull8 s = some (Memory.read s.ram (stackAddr (s.s - 1)).toNat, s.setS (s.s - 1)) := by
  simp [pull8, busRead_stackAddr]

theorem pull16_eq (s : State) :
    pull16 s = some (word16 (Memory.read s.ram (stackAddr (s.s - 1 - 1)).toNat) (Memory.read s.ram (stackAddr (s.s - 1)).toNat),
      (s.setS (s.s - 1)).setS (s.s - 1 - 1)) := by
  simp [pull16, pull8_eq]

section
variable (v : Byte) (s : State)

@[simp] theorem push8_pc : (push8 v s).pc = s.pc := by simp [push8]
@[simp] theorem push8_a : (push8 v s).a = s.a := by simp [push8]
@[simp] theorem push8_x : (push8 v s).x = s.x := by simp [push8]
@[simp] theorem push8_y : (push8 v s).y = s.y := by simp [push8]
@[simp] theorem push8_s : (push8 v s).s = s.s + 1 := by simp [push8]
@[simp] theorem push8_p : (push8 v s).p = s.p := by simp [push8]
@[simp] theorem push8_run : (push8 v s).run = s.run := by simp [push8]
@[simp] theorem push8_input : (push8 v s).input = s.input := by simp [push8]
@[simp] theorem push8_output : (push8 v s).output = s.output := by simp [push8_eq]
@[simp] theorem push8_par : (push8 v s).par = s.par := by simp [push8]
@[simp] theorem push8_ram : (push8 v s).ram = Memory.write s.ram (stackAddr s.s).toNat v := by simp [push8_eq]

/-- A push changes one byte. -/
theorem peek_push8_ne {b : Addr} (hne : b ≠ stackAddr s.s) : peek (push8 v s) b = peek s b :=
  peek_busWrite_ne (stackAddr s.s) v s hne

theorem push8_wf (hs : Memory.wf Config.ramSize s.ram = true) : Memory.wf Config.ramSize (push8 v s).ram = true := by
  simpa [push8] using busWrite_wf (stackAddr s.s) v s hs

end

section
variable (w : Addr) (s : State)

@[simp] theorem push16_pc : (push16 w s).pc = s.pc := by simp [push16]
@[simp] theorem push16_a : (push16 w s).a = s.a := by simp [push16]
@[simp] theorem push16_x : (push16 w s).x = s.x := by simp [push16]
@[simp] theorem push16_y : (push16 w s).y = s.y := by simp [push16]
@[simp] theorem push16_s : (push16 w s).s = s.s + 1 + 1 := by simp [push16]
@[simp] theorem push16_p : (push16 w s).p = s.p := by simp [push16]
@[simp] theorem push16_run : (push16 w s).run = s.run := by simp [push16]
@[simp] theorem push16_input : (push16 w s).input = s.input := by simp [push16]
@[simp] theorem push16_output : (push16 w s).output = s.output := by simp [push16]
@[simp] theorem push16_par : (push16 w s).par = s.par := by simp [push16]

/-- A pushed word changes two bytes. -/
theorem peek_push16_ne {b : Addr} (h1 : b ≠ stackAddr s.s) (h2 : b ≠ stackAddr (s.s + 1)) : peek (push16 w s) b = peek s b := by
  rw [push16, peek_push8_ne _ _ (by simpa using h2), peek_push8_ne _ _ h1]

theorem push16_wf (hs : Memory.wf Config.ramSize s.ram = true) : Memory.wf Config.ramSize (push16 w s).ram = true :=
  push8_wf _ _ (push8_wf _ _ hs)

end

/-! ## The trap and the return from it -/

/-- The break vector lies in program storage. -/
theorem read16_breakVector (s : State) :
    read16 Config.breakVector s = some (word16 (Memory.read s.par.rom 0x7FFF) (Memory.read s.par.rom 0x7FFE), s) := by
  exact readPair_peek (lo := Config.breakVector) (hi := Config.breakVector + 1) rfl rfl

/-- Trap entry in closed form. -/
theorem takeBreak_eq (s : State) :
    takeBreak s = some ((writeFlag .i true (push8 (pushedStatus s.p) (push16 s.pc s))).setPc
      (word16 (Memory.read s.par.rom 0x7FFF) (Memory.read s.par.rom 0x7FFE))) := by
  simp [takeBreak, read16_breakVector, push16]

/-- Trap return in closed form. -/
theorem returnFromBreak_eq (s : State) :
    returnFromBreak s = some
      { s with
        p := pulledStatus (Memory.read s.ram (stackAddr (s.s - 1)).toNat)
        s := s.s - 1 - 1 - 1
        pc := word16 (Memory.read s.ram (stackAddr (s.s - 1 - 1 - 1)).toNat) (Memory.read s.ram (stackAddr (s.s - 1 - 1)).toNat) } := by
  simp [returnFromBreak, pull8_eq, pull16_eq, State.setS, State.setP, State.setPc]

end Sys2Proof.Machine
end

