-- ==== Sys2Proof/Laws/Operands.lean ====
section
/-! SUPPORT. What resolving and reading an operand can do: only `PC` moves and only the console's
input shrinks (`ReadFrame`); where `PC` ends; when an access waits; and the instruction frames
inverted once. -/

namespace Sys2Proof.Machine

/-- Everything but `PC` is kept, and the input may only have lost bytes at its front. -/
structure ReadFrame (σ τ : State) : Prop where
  a : τ.a = σ.a
  x : τ.x = σ.x
  y : τ.y = σ.y
  s : τ.s = σ.s
  p : τ.p = σ.p
  run : τ.run = σ.run
  ram : τ.ram = σ.ram
  input : inputTail τ.input σ.input
  output : τ.output = σ.output
  par : τ.par = σ.par

theorem ReadFrame.refl (s : State) : ReadFrame s s :=
  ⟨rfl, rfl, rfl, rfl, rfl, rfl, rfl, inputTail_refl _, rfl, rfl⟩

theorem ReadFrame.trans {s t u : State} (h : ReadFrame s t) (k : ReadFrame t u) : ReadFrame s u :=
  ⟨k.a.trans h.a, k.x.trans h.x, k.y.trans h.y, k.s.trans h.s, k.p.trans h.p, k.run.trans h.run, k.ram.trans h.ram,
    inputTail_trans k.input h.input, k.output.trans h.output, k.par.trans h.par⟩

theorem readFrame_setPc (w : Addr) (s : State) : ReadFrame s (s.setPc w) :=
  ⟨rfl, rfl, rfl, rfl, rfl, rfl, rfl, inputTail_refl _, rfl, rfl⟩

theorem readFrame_advance (n : Nat) (s : State) : ReadFrame s (advance n s) := readFrame_setPc _ s

theorem ReadFrame.peek {s t : State} (h : ReadFrame s t) (b : Addr) : peek t b = peek s b := by
  simp [Machine.peek, h.ram, h.par]

/-- A read frame is a change of `PC` and input alone. -/
theorem ReadFrame.eq {s t : State} (h : ReadFrame s t) : t = (s.setPc t.pc).setInput t.input :=
  State.ext_fields rfl h.a h.x h.y h.s h.p h.run h.ram rfl h.output h.par

theorem busRead_frame {a : Addr} {s t : State} {v : Byte} (h : busRead a s = some (v, t)) : ReadFrame s t ∧ t.pc = s.pc := by
  obtain ⟨-, rfl⟩ | ⟨-, hin, ht⟩ := busRead_cases h
  · exact ⟨ReadFrame.refl _, rfl⟩
  · rw [ht]
    exact ⟨⟨rfl, rfl, rfl, rfl, rfl, rfl, rfl, inputTail_next hin, rfl, rfl⟩, rfl⟩

/-- A bus read takes at most one input byte, and only at the console. -/
theorem busRead_input {a : Addr} {s t : State} {v : Byte} (h : busRead a s = some (v, t)) :
    t = s ∨ a = 0x2000#16 ∧ nextInput s.input = some (v, t.input) := by
  obtain ⟨-, rfl⟩ | ⟨ha, hin, -⟩ := busRead_cases h
  · exact .inl rfl
  · exact .inr ⟨ha, hin⟩

theorem readPair_frame {lo hi w : Addr} {s t : State} (h : readPair lo hi s = some (w, t)) : ReadFrame s t ∧ t.pc = s.pc := by
  obtain ⟨l, u, g, h1, h2, -⟩ := readPair_cases h
  have f1 := busRead_frame h1
  have f2 := busRead_frame h2
  exact ⟨f1.1.trans f2.1, f2.2.trans f1.2⟩

/-- Two reads at different addresses wait only if there is no input at all. -/
theorem readPair_ne_none {lo hi : Addr} {s : State} (hne : lo ≠ hi) (hin : s.input ≠ .empty) : readPair lo hi s ≠ none := by
  unfold readPair
  split
  · rename_i h
    exact fun _ => hin (busRead_none.1 h).2
  · rename_i l u h
    split
    · rename_i h2
      obtain ⟨rfl, h4⟩ := busRead_none.1 h2
      obtain rfl | ⟨h5, -⟩ := busRead_input h
      · exact fun _ => hin h4
      · exact fun _ => hne h5
    · simp

/-- A zero-page pointer is read without waiting, both bytes from page 0 (40_step_and_addressing.md R75, R76). -/
theorem read16Bug_zext16 (z : Byte) (s : State) :
    read16Bug (zext16 z) s = some (word16 (Memory.read s.ram (zext16 (z + 1)).toNat) (Memory.read s.ram (zext16 z).toNat), s) := by
  simp [read16Bug, readPair, bugHighAddr_zext16, busRead_zext16]

/-! ## The resolver -/

/-- The resolver moves `PC` past the instruction, the relative one to the displacement byte, and
keeps everything else but the input (40_step_and_addressing.md R82). -/
theorem resolve_frame {f : Form} {s t : State} {op : Operand} (h : resolve f s = some (op, t)) :
    ReadFrame s t ∧ t.pc = s.pc + BitVec.ofNat 16 (if f.mode = .relative then 1 else f.mode.length) := by
  cases f
  case indirect p =>
    simp only [resolve] at h
    split at h
    · simp at h
    · rename_i hp
      have hf := readPair_frame hp
      simp only [Option.some.injEq, Prod.mk.injEq] at h
      obtain ⟨-, rfl⟩ := h
      exact ⟨(readFrame_advance 3 s).trans hf.1, by rw [hf.2]; rfl⟩
  all_goals
    simp only [resolve, read16Bug_zext16, Option.some.injEq, Prod.mk.injEq] at h
    obtain ⟨-, rfl⟩ := h
    exact ⟨readFrame_advance _ s, rfl⟩

/-- Only the indirect resolver can read the console. -/
theorem resolve_input {f : Form} {s t : State} {op : Operand} (h : resolve f s = some (op, t)) (hf : f.mode ≠ .indirect) :
    t.input = s.input := by
  cases f
  case indirect p => exact absurd rfl hf
  all_goals
    simp only [resolve, read16Bug_zext16, Option.some.injEq, Prod.mk.injEq] at h
    obtain ⟨-, rfl⟩ := h
    rfl

theorem resolve_ne_none {f : Form} {s : State} (hin : s.input ≠ .empty) : resolve f s ≠ none := by
  cases f
  case indirect p =>
    simp only [resolve]
    split
    · rename_i h
      exact fun _ => readPair_ne_none (Ne.symm (bugHighAddr_ne p)) (by simpa using hin) h
    · simp
  all_goals simp [resolve, read16Bug_zext16]

theorem load_frame {op : Operand} {s t : State} {v : Byte} (h : load op s = some (v, t)) : ReadFrame s t ∧ t.pc = s.pc := by
  cases op <;> simp only [load, Option.some.injEq, Prod.mk.injEq] at h
  case addr a => exact busRead_frame h
  all_goals
    obtain ⟨-, rfl⟩ := h
    exact ⟨ReadFrame.refl _, rfl⟩

theorem load_ne_none {op : Operand} {s : State} (hin : s.input ≠ .empty) : load op s ≠ none := by
  cases op <;> simp only [load, ne_eq, reduceCtorEq, not_false_eq_true]
  exact fun h => hin (busRead_none.1 h).2

section
variable (op : Operand) (v : Byte) (s : State)

@[simp] theorem store_pc : (store op v s).pc = s.pc := by cases op <;> simp [store]
@[simp] theorem store_x : (store op v s).x = s.x := by cases op <;> simp [store]
@[simp] theorem store_y : (store op v s).y = s.y := by cases op <;> simp [store]
@[simp] theorem store_s : (store op v s).s = s.s := by cases op <;> simp [store]
@[simp] theorem store_p : (store op v s).p = s.p := by cases op <;> simp [store]
@[simp] theorem store_run : (store op v s).run = s.run := by cases op <;> simp [store]
@[simp] theorem store_input : (store op v s).input = s.input := by cases op <;> simp [store]
@[simp] theorem store_par : (store op v s).par = s.par := by cases op <;> simp [store]

/-- A store writes `A` only where there is no operand. -/
theorem store_a (h : op ≠ .none) : (store op v s).a = s.a := by
  cases op <;> simp_all [store]

theorem store_output : s.output <+: (store op v s).output := by
  cases op <;> simp [store, busWrite_output]

theorem store_wf (hs : Memory.wf Config.ramSize s.ram = true) : Memory.wf Config.ramSize (store op v s).ram = true := by
  cases op <;> simp [store, hs, busWrite_wf]

end

/-! ## The instruction frames -/

theorem finish_next {o : Option State} {t : State} : finish o = .next t ↔ o = some t := by
  cases o <;> simp [finish]

theorem withOperand_next {f : Form} {g : Operand → State → Option State} {s t : State} :
    withOperand f g s = .next t ↔ ∃ op u, resolve f s = some (op, u) ∧ g op u = some t := by
  unfold withOperand
  split
  · rename_i h
    simp [h]
  · rename_i op u h
    simp [h, finish_next]

theorem withTarget_next {f : Form} {g : Operand → State → State} {s t : State} :
    withTarget f g s = .next t ↔ ∃ op u, resolve f s = some (op, u) ∧ t = g op u := by
  simp only [withTarget, withOperand_next, Option.some.injEq]
  exact exists₂_congr fun _ _ => and_congr_right fun _ => eq_comm

theorem withValue_next {f : Form} {g : Byte → State → State} {s t : State} :
    withValue f g s = .next t ↔ ∃ op u v w, resolve f s = some (op, u) ∧ load op u = some (v, w) ∧ t = g v w := by
  simp only [withValue, withOperand_next]
  constructor
  · rintro ⟨op, u, h1, h2⟩
    split at h2
    · simp at h2
    · rename_i v w h3
      exact ⟨op, u, v, w, h1, h3, by simpa [eq_comm] using h2⟩
  · rintro ⟨op, u, v, w, h1, h2, rfl⟩
    exact ⟨op, u, h1, by simp [h2]⟩

theorem stepOperand_next {f : Form} {g : Byte → Byte} {s t : State} :
    stepOperand f g s = .next t ↔
      ∃ op u v w, resolve f s = some (op, u) ∧ load op u = some (v, w) ∧ t = updateZN (g v) (store op (g v) w) := by
  simp only [stepOperand, withOperand_next]
  constructor
  · rintro ⟨op, u, h1, h2⟩
    split at h2
    · simp at h2
    · rename_i v w h3
      exact ⟨op, u, v, w, h1, h3, by simpa [eq_comm] using h2⟩
  · rintro ⟨op, u, v, w, h1, h2, rfl⟩
    exact ⟨op, u, h1, by simp [h2]⟩

theorem shiftOperand_next {f : Form} {g : Byte → Bool → ShiftOut} {s t : State} :
    shiftOperand f g s = .next t ↔
      ∃ op u v w, resolve f s = some (op, u) ∧ load op u = some (v, w) ∧
        t = updateZN (g v (getFlag .c w.p)).result
          (writeFlag .c (g v (getFlag .c w.p)).cout (store op (g v (getFlag .c w.p)).result w)) := by
  simp only [shiftOperand, withOperand_next]
  constructor
  · rintro ⟨op, u, h1, h2⟩
    split at h2
    · simp at h2
    · rename_i v w h3
      exact ⟨op, u, v, w, h1, h3, by simpa [eq_comm] using h2⟩
  · rintro ⟨op, u, v, w, h1, h2, rfl⟩
    exact ⟨op, u, h1, by simp [h2]⟩

end Sys2Proof.Machine
end

