-- ==== Sys2Proof/Laws/Exec.lean ====
section
/-! SUPPORT. `exec` by mnemonic and form: every opcode's meaning is its mnemonic's meaning on its
addressing mode, so a proof over all instructions has 56 cases and not 151. Each meaning is one of
four shapes (`Effect`), so most have four cases; `exec_next` says once what a completed instruction did. -/

namespace Sys2Proof.Machine

/-- The meaning of a mnemonic over an addressing mode. -/
def meaning : Mnemonic → Form → State → Result
  | .adc => meanAdc
  | .and => meanAnd
  | .asl => meanAsl
  | .bcc => meanBcc
  | .bcs => meanBcs
  | .beq => meanBeq
  | .bit => meanBit
  | .bmi => meanBmi
  | .bne => meanBne
  | .bpl => meanBpl
  | .brk => meanBrk
  | .bvc => meanBvc
  | .bvs => meanBvs
  | .clc => meanClc
  | .cld => meanCld
  | .cli => meanCli
  | .clv => meanClv
  | .cmp => meanCmp
  | .cpx => meanCpx
  | .cpy => meanCpy
  | .dec => meanDec
  | .dex => meanDex
  | .dey => meanDey
  | .eor => meanEor
  | .inc => meanInc
  | .inx => meanInx
  | .iny => meanIny
  | .jmp => meanJmp
  | .jsr => meanJsr
  | .lda => meanLda
  | .ldx => meanLdx
  | .ldy => meanLdy
  | .lsr => meanLsr
  | .nop => meanNop
  | .ora => meanOra
  | .pha => meanPha
  | .php => meanPhp
  | .pla => meanPla
  | .plp => meanPlp
  | .rol => meanRol
  | .ror => meanRor
  | .rti => meanRti
  | .rts => meanRts
  | .sbc => meanSbc
  | .sec => meanSec
  | .sed => meanSed
  | .sei => meanSei
  | .sta => meanSta
  | .stx => meanStx
  | .sty => meanSty
  | .tax => meanTax
  | .tay => meanTay
  | .tsx => meanTsx
  | .txa => meanTxa
  | .txs => meanTxs
  | .tya => meanTya

theorem exec_eq_meaning (i : Instr) (s : State) : exec i s = meaning i.mnemonic i.form s := by
  cases i <;> rfl

@[simp] theorem branchTo_a (c : Byte → Bool) (op : Operand) (s : State) : (branchTo c op s).a = s.a := by
  cases op <;> simp only [branchTo] <;> [skip; skip; skip; split] <;> rfl
@[simp] theorem branchTo_x (c : Byte → Bool) (op : Operand) (s : State) : (branchTo c op s).x = s.x := by
  cases op <;> simp only [branchTo] <;> [skip; skip; skip; split] <;> rfl
@[simp] theorem branchTo_y (c : Byte → Bool) (op : Operand) (s : State) : (branchTo c op s).y = s.y := by
  cases op <;> simp only [branchTo] <;> [skip; skip; skip; split] <;> rfl
@[simp] theorem branchTo_s (c : Byte → Bool) (op : Operand) (s : State) : (branchTo c op s).s = s.s := by
  cases op <;> simp only [branchTo] <;> [skip; skip; skip; split] <;> rfl
@[simp] theorem branchTo_p (c : Byte → Bool) (op : Operand) (s : State) : (branchTo c op s).p = s.p := by
  cases op <;> simp only [branchTo] <;> [skip; skip; skip; split] <;> rfl
@[simp] theorem branchTo_run (c : Byte → Bool) (op : Operand) (s : State) : (branchTo c op s).run = s.run := by
  cases op <;> simp only [branchTo] <;> [skip; skip; skip; split] <;> rfl
@[simp] theorem branchTo_ram (c : Byte → Bool) (op : Operand) (s : State) : (branchTo c op s).ram = s.ram := by
  cases op <;> simp only [branchTo] <;> [skip; skip; skip; split] <;> rfl
@[simp] theorem branchTo_input (c : Byte → Bool) (op : Operand) (s : State) : (branchTo c op s).input = s.input := by
  cases op <;> simp only [branchTo] <;> [skip; skip; skip; split] <;> rfl
@[simp] theorem branchTo_output (c : Byte → Bool) (op : Operand) (s : State) : (branchTo c op s).output = s.output := by
  cases op <;> simp only [branchTo] <;> [skip; skip; skip; split] <;> rfl
@[simp] theorem branchTo_par (c : Byte → Bool) (op : Operand) (s : State) : (branchTo c op s).par = s.par := by
  cases op <;> simp only [branchTo] <;> [skip; skip; skip; split] <;> rfl

@[simp] theorem jumpTo_a (op : Operand) (s : State) : (jumpTo op s).a = s.a := by cases op <;> rfl
@[simp] theorem jumpTo_x (op : Operand) (s : State) : (jumpTo op s).x = s.x := by cases op <;> rfl
@[simp] theorem jumpTo_y (op : Operand) (s : State) : (jumpTo op s).y = s.y := by cases op <;> rfl
@[simp] theorem jumpTo_s (op : Operand) (s : State) : (jumpTo op s).s = s.s := by cases op <;> rfl
@[simp] theorem jumpTo_p (op : Operand) (s : State) : (jumpTo op s).p = s.p := by cases op <;> rfl
@[simp] theorem jumpTo_run (op : Operand) (s : State) : (jumpTo op s).run = s.run := by cases op <;> rfl
@[simp] theorem jumpTo_ram (op : Operand) (s : State) : (jumpTo op s).ram = s.ram := by cases op <;> rfl
@[simp] theorem jumpTo_input (op : Operand) (s : State) : (jumpTo op s).input = s.input := by cases op <;> rfl
@[simp] theorem jumpTo_output (op : Operand) (s : State) : (jumpTo op s).output = s.output := by cases op <;> rfl
@[simp] theorem jumpTo_par (op : Operand) (s : State) : (jumpTo op s).par = s.par := by cases op <;> rfl

@[simp] theorem addResult_pc (r : AluOut) (s : State) : (addResult r s).pc = s.pc := rfl
@[simp] theorem addResult_x (r : AluOut) (s : State) : (addResult r s).x = s.x := rfl
@[simp] theorem addResult_y (r : AluOut) (s : State) : (addResult r s).y = s.y := rfl
@[simp] theorem addResult_s (r : AluOut) (s : State) : (addResult r s).s = s.s := rfl
@[simp] theorem addResult_run (r : AluOut) (s : State) : (addResult r s).run = s.run := rfl
@[simp] theorem addResult_ram (r : AluOut) (s : State) : (addResult r s).ram = s.ram := rfl
@[simp] theorem addResult_input (r : AluOut) (s : State) : (addResult r s).input = s.input := rfl
@[simp] theorem addResult_output (r : AluOut) (s : State) : (addResult r s).output = s.output := rfl
@[simp] theorem addResult_par (r : AluOut) (s : State) : (addResult r s).par = s.par := rfl

/-- The four shapes of a meaning: what is done with the resolved operand (the trap, the returns and the
pulls in the closed form their laws give them). -/
inductive Effect where
  /-- No bus read after the resolver's. -/
  | target (g : Operand → State → State)
  /-- The operand is read once. -/
  | value (g : Byte → State → State)
  /-- INC and DEC. -/
  | step (g : Byte → Byte)
  /-- The four shifts. -/
  | shift (g : Byte → Bool → ShiftOut)

/-- The shape of each mnemonic's meaning. -/
def effect : Mnemonic → Effect
  | .lda => .value fun v t => updateZN v (t.setA v)
  | .ldx => .value fun v t => updateZN v (t.setX v)
  | .ldy => .value fun v t => updateZN v (t.setY v)
  | .sta => .target fun op t => store op t.a t
  | .stx => .target fun op t => store op t.x t
  | .sty => .target fun op t => store op t.y t
  | .tax => .target fun _ t => updateZN t.a (t.setX t.a)
  | .tay => .target fun _ t => updateZN t.a (t.setY t.a)
  | .txa => .target fun _ t => updateZN t.x (t.setA t.x)
  | .tya => .target fun _ t => updateZN t.y (t.setA t.y)
  | .tsx => .target fun _ t => updateZN t.s (t.setX t.s)
  | .txs => .target fun _ t => t.setS t.x
  | .adc => .value fun m t => addResult (add8 t.a m (getFlag .c t.p)) t
  | .sbc => .value fun m t => addResult (sub8 t.a m (getFlag .c t.p)) t
  | .cmp => .value fun m t => t.setP (cmp8 t.a m t.p)
  | .cpx => .value fun m t => t.setP (cmp8 t.x m t.p)
  | .cpy => .value fun m t => t.setP (cmp8 t.y m t.p)
  | .inc => .step fun m => m + 1
  | .dec => .step fun m => m - 1
  | .inx => .target fun _ t => updateZN (t.x + 1) (t.setX (t.x + 1))
  | .iny => .target fun _ t => updateZN (t.y + 1) (t.setY (t.y + 1))
  | .dex => .target fun _ t => updateZN (t.x - 1) (t.setX (t.x - 1))
  | .dey => .target fun _ t => updateZN (t.y - 1) (t.setY (t.y - 1))
  | .and => .value fun m t => updateZN (t.a &&& m) (t.setA (t.a &&& m))
  | .ora => .value fun m t => updateZN (t.a ||| m) (t.setA (t.a ||| m))
  | .eor => .value fun m t => updateZN (t.a ^^^ m) (t.setA (t.a ^^^ m))
  | .bit => .value fun m t => t.setP (bitFlags t.a m t.p)
  | .asl => .shift shiftLeft
  | .lsr => .shift shiftRight
  | .rol => .shift rotateLeft
  | .ror => .shift rotateRight
  | .bcc => .target (branchTo fun p => !getFlag .c p)
  | .bcs => .target (branchTo fun p => getFlag .c p)
  | .beq => .target (branchTo fun p => getFlag .z p)
  | .bne => .target (branchTo fun p => !getFlag .z p)
  | .bmi => .target (branchTo fun p => getFlag .n p)
  | .bpl => .target (branchTo fun p => !getFlag .n p)
  | .bvc => .target (branchTo fun p => !getFlag .v p)
  | .bvs => .target (branchTo fun p => getFlag .v p)
  | .jmp => .target jumpTo
  | .jsr => .target fun op t => jumpTo op (push16 (t.pc - 1) t)
  | .rts => .target fun _ t =>
      ((t.setS (t.s - 1)).setS (t.s - 1 - 1)).setPc
        (word16 (Memory.read t.ram (stackAddr (t.s - 1 - 1)).toNat) (Memory.read t.ram (stackAddr (t.s - 1)).toNat) + 1)
  | .pha => .target fun _ t => push8 t.a t
  | .php => .target fun _ t => push8 (pushedStatus t.p) t
  | .pla => .target fun _ t =>
      updateZN (Memory.read t.ram (stackAddr (t.s - 1)).toNat)
        ((t.setS (t.s - 1)).setA (Memory.read t.ram (stackAddr (t.s - 1)).toNat))
  | .plp => .target fun _ t => (t.setS (t.s - 1)).setP (pulledStatus (Memory.read t.ram (stackAddr (t.s - 1)).toNat))
  | .clc => .target fun _ t => writeFlag .c false t
  | .sec => .target fun _ t => writeFlag .c true t
  | .cli => .target fun _ t => writeFlag .i false t
  | .sei => .target fun _ t => writeFlag .i true t
  | .clv => .target fun _ t => writeFlag .v false t
  | .cld => .target fun _ t => writeFlag .d false t
  | .sed => .target fun _ t => writeFlag .d true t
  | .brk => .target fun _ t =>
      (writeFlag .i true (push8 (pushedStatus t.p) (push16 t.pc t))).setPc
        (word16 (Memory.read t.par.rom 0x7FFF) (Memory.read t.par.rom 0x7FFE))
  | .rti => .target fun _ t =>
      ((t.setS (t.s - 1 - 1 - 1)).setP (pulledStatus (Memory.read t.ram (stackAddr (t.s - 1)).toNat))).setPc
        (word16 (Memory.read t.ram (stackAddr (t.s - 1 - 1 - 1)).toNat) (Memory.read t.ram (stackAddr (t.s - 1 - 1)).toNat))
  | .nop => .target fun _ t => t

/-- The frame of `Machine/Operands.lean` each shape runs in. -/
def Effect.run : Effect → Form → State → Result
  | .target g => fun f s => withTarget f g s
  | .value g => fun f s => withValue f g s
  | .step g => fun f s => stepOperand f g s
  | .shift g => fun f s => shiftOperand f g s

theorem exec_eq_effect (i : Instr) (s : State) : exec i s = (effect i.mnemonic).run i.form s := by
  rw [exec_eq_meaning]
  cases i.mnemonic
  case rts => simp only [meaning, meanRts, effect, Effect.run, withTarget, pull16_eq]
  case pla => simp only [meaning, meanPla, effect, Effect.run, withTarget, pull8_eq]
  case plp => simp only [meaning, meanPlp, effect, Effect.run, withTarget, pull8_eq]
  case brk => simp only [meaning, meanBrk, effect, Effect.run, withTarget, takeBreak_eq]
  case rti => simp only [meaning, meanRti, effect, Effect.run, withTarget, returnFromBreak_eq]; rfl
  all_goals rfl

/-- What an instruction did after its resolver left `u` and its operand `op`. -/
def Effect.Did : Effect → Operand → State → State → Prop
  | .target g, op, u, t => t = g op u
  | .value g, op, u, t => ∃ v w, load op u = some (v, w) ∧ ReadFrame u w ∧ w.pc = u.pc ∧ t = g v w
  | .step g, op, u, t =>
      ∃ v w, load op u = some (v, w) ∧ ReadFrame u w ∧ w.pc = u.pc ∧ t = updateZN (g v) (store op (g v) w)
  | .shift g, op, u, t =>
      ∃ v w, load op u = some (v, w) ∧ ReadFrame u w ∧ w.pc = u.pc ∧
        t = updateZN (g v (getFlag .c w.p)).result
          (writeFlag .c (g v (getFlag .c w.p)).cout (store op (g v (getFlag .c w.p)).result w))

/-- Everything a completed instruction can have done. -/
theorem exec_next {i : Instr} {s t : State} (h : exec i s = .next t) :
    ∃ op u, resolve i.form s = some (op, u) ∧ ReadFrame s u ∧
      u.pc = s.pc + BitVec.ofNat 16 (if i.form.mode = .relative then 1 else i.form.mode.length) ∧
      (effect i.mnemonic).Did op u t := by
  rw [exec_eq_effect] at h
  cases he : effect i.mnemonic <;> rw [he] at h
  · obtain ⟨op, u, h1, h2⟩ := withTarget_next.1 h
    exact ⟨op, u, h1, (resolve_frame h1).1, (resolve_frame h1).2, h2⟩
  · obtain ⟨op, u, v, w, h1, h2, h3⟩ := withValue_next.1 h
    exact ⟨op, u, h1, (resolve_frame h1).1, (resolve_frame h1).2, v, w, h2, (load_frame h2).1, (load_frame h2).2, h3⟩
  · obtain ⟨op, u, v, w, h1, h2, h3⟩ := stepOperand_next.1 h
    exact ⟨op, u, h1, (resolve_frame h1).1, (resolve_frame h1).2, v, w, h2, (load_frame h2).1, (load_frame h2).2, h3⟩
  · obtain ⟨op, u, v, w, h1, h2, h3⟩ := shiftOperand_next.1 h
    exact ⟨op, u, h1, (resolve_frame h1).1, (resolve_frame h1).2, v, w, h2, (load_frame h2).1, (load_frame h2).2, h3⟩

/-- An instruction that does not complete waits: the fault of an undefined opcode is the fetch's alone. -/
theorem exec_ne_undefinedOpcode (i : Instr) (s : State) (o : Byte) (a : Addr) (u : State) :
    exec i s ≠ .fault (.undefinedOpcode o a u) := by
  rw [exec_eq_effect]
  have key : ∀ (g : Operand → State → Option State), withOperand i.form g s ≠ .fault (.undefinedOpcode o a u) := by
    intro g
    unfold withOperand
    split
    · simp
    · rename_i op t _
      cases g op t <;> simp [finish]
  cases effect i.mnemonic <;> exact key _

end Sys2Proof.Machine
end

