-- ==== Sys2Proof/Laws/Step.lean ====
section
/-! SUPPORT. What a fetch and a step can do, said once. -/

namespace Sys2Proof.Machine

theorem readBytes_frame {n : Nat} {a : Addr} {s t : State} {bs : List Byte} (h : readBytes n a s = some (bs, t)) :
    ReadFrame s t ∧ t.pc = s.pc := by
  induction n generalizing a s bs with
  | zero =>
    simp only [readBytes, Option.some.injEq, Prod.mk.injEq] at h
    obtain ⟨-, rfl⟩ := h
    exact ⟨ReadFrame.refl _, rfl⟩
  | succ n ih =>
    simp only [readBytes] at h
    split at h
    · simp at h
    · rename_i b u hb
      split at h
      · simp at h
      · rename_i bs' w hw
        simp only [Option.some.injEq, Prod.mk.injEq] at h
        obtain ⟨-, rfl⟩ := h
        have f1 := busRead_frame hb
        have f2 := ih hw
        exact ⟨f1.1.trans f2.1, f2.2.trans f1.2⟩

/-- A fetch that finds an instruction changed nothing but the input. -/
theorem fetch_instr {s t : State} {i : Instr} (h : fetch s = .instr i t) : ReadFrame s t ∧ t.pc = s.pc := by
  unfold fetch at h
  split at h
  · simp at h
  · rename_i opc u hu
    split at h
    · simp at h
    · split at h
      · simp at h
      · split at h
        · simp at h
        · rename_i bs w hw
          split at h
          · simp only [Fetched.instr.injEq] at h
            obtain ⟨-, rfl⟩ := h
            have f1 := busRead_frame hu
            have f2 := readBytes_frame hw
            exact ⟨f1.1.trans f2.1, f2.2.trans f1.2⟩
          · simp at h

/-- A halting fetch read the one byte `EA`, with the halt policy on. -/
theorem fetch_halt {s t : State} (h : fetch s = .halt t) : busRead s.pc s = some (0xEA#8, t) ∧ s.par.haltOnNop = true := by
  unfold fetch at h
  split at h
  · simp at h
  · rename_i opc u hu
    split at h
    · rename_i hh
      simp only [Fetched.halt.injEq] at h
      subst h
      simp only [Bool.and_eq_true, beq_iff_eq] at hh
      exact ⟨by rw [hu, hh.2]; rfl, by rw [← (busRead_frame hu).1.par]; exact hh.1⟩
    · split at h
      · simp at h
      · split at h
        · simp at h
        · split at h <;> simp at h

/-- Everything a step with a next state can have done. -/
theorem step_cases {s t : State} (h : step s = .next t) :
    (s.run ≠ .running ∧ t = s) ∨
      (s.run = .running ∧ ∃ i u, fetch s = .instr i u ∧ exec i u = .next t) ∨
      (s.run = .running ∧ ∃ u, fetch s = .halt u ∧ t = u.setRun .halted) := by
  unfold step at h
  split at h
  · rename_i hr
    simp only [stoppedStep, Host.Outcome.next.injEq] at h
    exact .inl ⟨by simp [hr], h.symm⟩
  · rename_i hr
    simp only [stoppedStep, Host.Outcome.next.injEq] at h
    exact .inl ⟨by simp [hr], h.symm⟩
  · rename_i hr
    split at h
    · rename_i i u hf
      exact .inr (.inl ⟨hr, i, u, hf, h⟩)
    · rename_i u hf
      simp only [haltStep, Host.Outcome.next.injEq] at h
      exact .inr (.inr ⟨hr, u, hf, h.symm⟩)
    · simp [faultStep] at h
    · simp [waitStep] at h

theorem readBytes_length {n : Nat} {a : Addr} {s t : State} {bs : List Byte} (h : readBytes n a s = some (bs, t)) :
    bs.length = n := by
  induction n generalizing a s t bs with
  | zero => simp [readBytes] at h; simp [← h.1]
  | succ n ih =>
    simp only [readBytes] at h
    split at h
    · simp at h
    · split at h
      · simp at h
      · rename_i hw
        simp only [Option.some.injEq, Prod.mk.injEq] at h
        rw [← h.1]; simp [ih hw]

/-- An undefined fetch read one byte, an opcode without a length. -/
theorem fetch_undefinedOpcode {s t : State} {o : Byte} (h : fetch s = .undefinedOpcode o t) :
    busRead s.pc s = some (o, t) ∧ opcodeLength o = none := by
  unfold fetch at h
  split at h
  · simp at h
  · rename_i opc u hu
    split at h
    · simp at h
    · split at h
      · rename_i hn
        simp only [Fetched.undefinedOpcode.injEq] at h
        obtain ⟨rfl, rfl⟩ := h
        exact ⟨hu, hn⟩
      · rename_i n hn
        split at h
        · simp at h
        · rename_i bs w hw
          obtain ⟨i, r, hd⟩ := decode_of_length hn (readBytes_length hw)
          simp [hd] at h

/-- The fault of an undefined opcode comes from a running core that read that opcode at `PC`. -/
theorem step_undefinedOpcode {s u : State} {o : Byte} {a : Addr} (h : step s = .fault (.undefinedOpcode o a u)) :
    s.run = .running ∧ a = s.pc ∧ opcodeLength o = none ∧ ∃ v, busRead s.pc s = some (o, v) ∧ u = v.setRun .faulted := by
  unfold step at h
  split at h
  · simp [stoppedStep] at h
  · simp [stoppedStep] at h
  · rename_i hr
    split at h
    · exact absurd h (exec_ne_undefinedOpcode _ _ _ _ _)
    · simp [haltStep] at h
    · rename_i opc t hf
      obtain ⟨h1, h2⟩ := fetch_undefinedOpcode hf
      simp only [faultStep, Host.Outcome.fault.injEq, Fault.undefinedOpcode.injEq] at h
      obtain ⟨rfl, rfl, rfl⟩ := h
      exact ⟨hr, (busRead_frame h1).2, h2, t, h1, rfl⟩
    · simp [waitStep] at h

end Sys2Proof.Machine
end

