-- ==== Sys2Proof/Tests/Slice0.lean ====
section
/-! SUPPORT. The model's own tests. Expected results come from the spec: the vectors of
95_test_vectors.md by their names (T-LS5 and so on), and the opcode matrix of 30_encoding.md R53. Last,
one witness per statement with hypotheses. -/

namespace Sys2Proof.Tests

open Sys2Proof.Machine

/-! ## Helpers -/

/-- A memory with the given bytes. -/
def cells (l : List Host.Cell) : Memory := l.foldl (fun m c => Memory.write m c.1 c.2) []

/-- The state after reset (95_test_vectors.md section 0) with `PC` at `pc` in program storage, the
instruction's bytes there, and other program storage bytes by index. -/
def code (pc : Addr) (bytes : List Byte) (rom : List Host.Cell) : State :=
  { State.reset with
    pc := pc
    par := { Params.default with rom := rom.foldl (fun m c => Memory.write m c.1 c.2) (Memory.ofBytes (romIndex pc) bytes) } }

/-- `HALT_ON_NOP = false`. -/
def nopRuns (s : State) : State := { s with par := { s.par with haltOnNop := false } }

/-- A next state that passes the check. -/
def after (r : Result) (check : State → Bool) : Bool :=
  match r with
  | .next t => check t
  | _ => false

/-- The fault of an undefined opcode that passes the check. -/
def undefinedAfter (r : Result) (check : Byte → Addr → State → Bool) : Bool :=
  match r with
  | .fault (.undefinedOpcode o a t) => check o a t
  | _ => false

/-- A step that waits for input. -/
def waits (r : Result) : Bool :=
  match r with
  | .fault .consoleWait => true
  | _ => false

/-- The bytes decode to the instruction and nothing is left over. -/
def decodesTo (bytes : List Byte) (i : Instr) : Bool := decode bytes == .instr i []

/-! ## Well-formedness: terms the check refuses -/

theorem test_wf_store_immediate_refused : admits .sta (.immediate 0x05#8) = false := by decide

theorem test_wf_ldx_zeroPageX_refused : admits .ldx (.zeroPageX 0x05#8) = false := by decide

theorem test_wf_branch_absolute_refused : admits .bne (.absolute 0x8000#16) = false := by decide

theorem test_wf_bit_immediate_refused : admits .bit (.immediate 0x05#8) = false := by decide

theorem test_wf_long_image_refused : imageWf (List.replicate 0x8001 0x00#8) = false := by
  simp only [imageWf, List.length_replicate, Config.romSize]
  decide

/-! ## Reset -/

/-- T-R1 and E9. -/
theorem test_reset_vector_R1 :
    (State.ofParams { Params.default with rom := [(0x7FFD, 0x80#8)], input := .ofList [0x41#8] }).pc = 0x8000#16 ∧
      (State.ofParams { Params.default with rom := [(0x7FFD, 0x80#8)], input := .ofList [0x41#8] }).input = .ofList [0x41#8] := by decide

/-- T-R2. -/
theorem test_reset_empty_image_R2 : State.reset.pc = 0x0000#16 ∧ State.reset.run = .running ∧ State.reset.s = 0x00#8 := by decide

/-- T-R3. -/
theorem test_reset_little_endian_R3 :
    (State.ofParams { Params.default with rom := [(0x7FFC, 0x34#8), (0x7FFD, 0x12#8)] }).pc = 0x1234#16 := by decide

/-- T-R5. -/
theorem test_warm_reset_R5 :
    ({ code 0x8000#16 [] [(0x7FFD, 0x80#8)] with
        run := .halted, s := 0x07#8, p := 0x23#8, ram := [(0x10, 0x0C#8)], output := [0x05#8] } : State).warmReset =
      State.ofParams { Params.default with rom := [(0x7FFD, 0x80#8)] } := by decide

/-! ## Decoding: every opcode, written out from the matrix of 30_encoding.md R53 -/

/-- Row `0x` of the matrix. -/
theorem test_decode_row0 :
    (decodesTo [0x00#8] .brk &&
      decodesTo [0x01#8, 0xFB#8] (.oraIndx 0xFB#8) &&
      decodesTo [0x05#8, 0xFB#8] (.oraZp 0xFB#8) &&
      decodesTo [0x06#8, 0xFB#8] (.aslZp 0xFB#8) &&
      decodesTo [0x08#8] .php &&
      decodesTo [0x09#8, 0xFB#8] (.oraImm 0xFB#8) &&
      decodesTo [0x0A#8] .aslAcc &&
      decodesTo [0x0D#8, 0x34#8, 0x12#8] (.oraAbs 0x1234#16) &&
      decodesTo [0x0E#8, 0x34#8, 0x12#8] (.aslAbs 0x1234#16)) = true := by decide

/-- Row `1x` of the matrix. -/
theorem test_decode_row1 :
    (decodesTo [0x10#8, 0xFB#8] (.bpl 0xFB#8) &&
      decodesTo [0x11#8, 0xFB#8] (.oraIndy 0xFB#8) &&
      decodesTo [0x15#8, 0xFB#8] (.oraZpx 0xFB#8) &&
      decodesTo [0x16#8, 0xFB#8] (.aslZpx 0xFB#8) &&
      decodesTo [0x18#8] .clc &&
      decodesTo [0x19#8, 0x34#8, 0x12#8] (.oraAbsy 0x1234#16) &&
      decodesTo [0x1D#8, 0x34#8, 0x12#8] (.oraAbsx 0x1234#16) &&
      decodesTo [0x1E#8, 0x34#8, 0x12#8] (.aslAbsx 0x1234#16)) = true := by decide

/-- Row `2x` of the matrix. -/
theorem test_decode_row2 :
    (decodesTo [0x20#8, 0x34#8, 0x12#8] (.jsr 0x1234#16) &&
      decodesTo [0x21#8, 0xFB#8] (.andIndx 0xFB#8) &&
      decodesTo [0x24#8, 0xFB#8] (.bitZp 0xFB#8) &&
      decodesTo [0x25#8, 0xFB#8] (.andZp 0xFB#8) &&
      decodesTo [0x26#8, 0xFB#8] (.rolZp 0xFB#8) &&
      decodesTo [0x28#8] .plp &&
      decodesTo [0x29#8, 0xFB#8] (.andImm 0xFB#8) &&
      decodesTo [0x2A#8] .rolAcc &&
      decodesTo [0x2C#8, 0x34#8, 0x12#8] (.bitAbs 0x1234#16) &&
      decodesTo [0x2D#8, 0x34#8, 0x12#8] (.andAbs 0x1234#16) &&
      decodesTo [0x2E#8, 0x34#8, 0x12#8] (.rolAbs 0x1234#16)) = true := by decide

/-- Row `3x` of the matrix. -/
theorem test_decode_row3 :
    (decodesTo [0x30#8, 0xFB#8] (.bmi 0xFB#8) &&
      decodesTo [0x31#8, 0xFB#8] (.andIndy 0xFB#8) &&
      decodesTo [0x35#8, 0xFB#8] (.andZpx 0xFB#8) &&
      decodesTo [0x36#8, 0xFB#8] (.rolZpx 0xFB#8) &&
      decodesTo [0x38#8] .sec &&
      decodesTo [0x39#8, 0x34#8, 0x12#8] (.andAbsy 0x1234#16) &&
      decodesTo [0x3D#8, 0x34#8, 0x12#8] (.andAbsx 0x1234#16) &&
      decodesTo [0x3E#8, 0x34#8, 0x12#8] (.rolAbsx 0x1234#16)) = true := by decide

/-- Row `4x` of the matrix. -/
theorem test_decode_row4 :
    (decodesTo [0x40#8] .rti &&
      decodesTo [0x41#8, 0xFB#8] (.eorIndx 0xFB#8) &&
      decodesTo [0x45#8, 0xFB#8] (.eorZp 0xFB#8) &&
      decodesTo [0x46#8, 0xFB#8] (.lsrZp 0xFB#8) &&
      decodesTo [0x48#8] .pha &&
      decodesTo [0x49#8, 0xFB#8] (.eorImm 0xFB#8) &&
      decodesTo [0x4A#8] .lsrAcc &&
      decodesTo [0x4C#8, 0x34#8, 0x12#8] (.jmpAbs 0x1234#16) &&
      decodesTo [0x4D#8, 0x34#8, 0x12#8] (.eorAbs 0x1234#16) &&
      decodesTo [0x4E#8, 0x34#8, 0x12#8] (.lsrAbs 0x1234#16)) = true := by decide

/-- Row `5x` of the matrix. -/
theorem test_decode_row5 :
    (decodesTo [0x50#8, 0xFB#8] (.bvc 0xFB#8) &&
      decodesTo [0x51#8, 0xFB#8] (.eorIndy 0xFB#8) &&
      decodesTo [0x55#8, 0xFB#8] (.eorZpx 0xFB#8) &&
      decodesTo [0x56#8, 0xFB#8] (.lsrZpx 0xFB#8) &&
      decodesTo [0x58#8] .cli &&
      decodesTo [0x59#8, 0x34#8, 0x12#8] (.eorAbsy 0x1234#16) &&
      decodesTo [0x5D#8, 0x34#8, 0x12#8] (.eorAbsx 0x1234#16) &&
      decodesTo [0x5E#8, 0x34#8, 0x12#8] (.lsrAbsx 0x1234#16)) = true := by decide

/-- Row `6x` of the matrix. -/
theorem test_decode_row6 :
    (decodesTo [0x60#8] .rts &&
      decodesTo [0x61#8, 0xFB#8] (.adcIndx 0xFB#8) &&
      decodesTo [0x65#8, 0xFB#8] (.adcZp 0xFB#8) &&
      decodesTo [0x66#8, 0xFB#8] (.rorZp 0xFB#8) &&
      decodesTo [0x68#8] .pla &&
      decodesTo [0x69#8, 0xFB#8] (.adcImm 0xFB#8) &&
      decodesTo [0x6A#8] .rorAcc &&
      decodesTo [0x6C#8, 0x34#8, 0x12#8] (.jmpInd 0x1234#16) &&
      decodesTo [0x6D#8, 0x34#8, 0x12#8] (.adcAbs 0x1234#16) &&
      decodesTo [0x6E#8, 0x34#8, 0x12#8] (.rorAbs 0x1234#16)) = true := by decide

/-- Row `7x` of the matrix. -/
theorem test_decode_row7 :
    (decodesTo [0x70#8, 0xFB#8] (.bvs 0xFB#8) &&
      decodesTo [0x71#8, 0xFB#8] (.adcIndy 0xFB#8) &&
      decodesTo [0x75#8, 0xFB#8] (.adcZpx 0xFB#8) &&
      decodesTo [0x76#8, 0xFB#8] (.rorZpx 0xFB#8) &&
      decodesTo [0x78#8] .sei &&
      decodesTo [0x79#8, 0x34#8, 0x12#8] (.adcAbsy 0x1234#16) &&
      decodesTo [0x7D#8, 0x34#8, 0x12#8] (.adcAbsx 0x1234#16) &&
      decodesTo [0x7E#8, 0x34#8, 0x12#8] (.rorAbsx 0x1234#16)) = true := by decide

/-- Row `8x` of the matrix. -/
theorem test_decode_row8 :
    (decodesTo [0x81#8, 0xFB#8] (.staIndx 0xFB#8) &&
      decodesTo [0x84#8, 0xFB#8] (.styZp 0xFB#8) &&
      decodesTo [0x85#8, 0xFB#8] (.staZp 0xFB#8) &&
      decodesTo [0x86#8, 0xFB#8] (.stxZp 0xFB#8) &&
      decodesTo [0x88#8] .dey &&
      decodesTo [0x8A#8] .txa &&
      decodesTo [0x8C#8, 0x34#8, 0x12#8] (.styAbs 0x1234#16) &&
      decodesTo [0x8D#8, 0x34#8, 0x12#8] (.staAbs 0x1234#16) &&
      decodesTo [0x8E#8, 0x34#8, 0x12#8] (.stxAbs 0x1234#16)) = true := by decide

/-- Row `9x` of the matrix. -/
theorem test_decode_row9 :
    (decodesTo [0x90#8, 0xFB#8] (.bcc 0xFB#8) &&
      decodesTo [0x91#8, 0xFB#8] (.staIndy 0xFB#8) &&
      decodesTo [0x94#8, 0xFB#8] (.styZpx 0xFB#8) &&
      decodesTo [0x95#8, 0xFB#8] (.staZpx 0xFB#8) &&
      decodesTo [0x96#8, 0xFB#8] (.stxZpy 0xFB#8) &&
      decodesTo [0x98#8] .tya &&
      decodesTo [0x99#8, 0x34#8, 0x12#8] (.staAbsy 0x1234#16) &&
      decodesTo [0x9A#8] .txs &&
      decodesTo [0x9D#8, 0x34#8, 0x12#8] (.staAbsx 0x1234#16)) = true := by decide

/-- Row `Ax` of the matrix. -/
theorem test_decode_rowA :
    (decodesTo [0xA0#8, 0xFB#8] (.ldyImm 0xFB#8) &&
      decodesTo [0xA1#8, 0xFB#8] (.ldaIndx 0xFB#8) &&
      decodesTo [0xA2#8, 0xFB#8] (.ldxImm 0xFB#8) &&
      decodesTo [0xA4#8, 0xFB#8] (.ldyZp 0xFB#8) &&
      decodesTo [0xA5#8, 0xFB#8] (.ldaZp 0xFB#8) &&
      decodesTo [0xA6#8, 0xFB#8] (.ldxZp 0xFB#8) &&
      decodesTo [0xA8#8] .tay &&
      decodesTo [0xA9#8, 0xFB#8] (.ldaImm 0xFB#8) &&
      decodesTo [0xAA#8] .tax &&
      decodesTo [0xAC#8, 0x34#8, 0x12#8] (.ldyAbs 0x1234#16) &&
      decodesTo [0xAD#8, 0x34#8, 0x12#8] (.ldaAbs 0x1234#16) &&
      decodesTo [0xAE#8, 0x34#8, 0x12#8] (.ldxAbs 0x1234#16)) = true := by decide

/-- Row `Bx` of the matrix. -/
theorem test_decode_rowB :
    (decodesTo [0xB0#8, 0xFB#8] (.bcs 0xFB#8) &&
      decodesTo [0xB1#8, 0xFB#8] (.ldaIndy 0xFB#8) &&
      decodesTo [0xB4#8, 0xFB#8] (.ldyZpx 0xFB#8) &&
      decodesTo [0xB5#8, 0xFB#8] (.ldaZpx 0xFB#8) &&
      decodesTo [0xB6#8, 0xFB#8] (.ldxZpy 0xFB#8) &&
      decodesTo [0xB8#8] .clv &&
      decodesTo [0xB9#8, 0x34#8, 0x12#8] (.ldaAbsy 0x1234#16) &&
      decodesTo [0xBA#8] .tsx &&
      decodesTo [0xBC#8, 0x34#8, 0x12#8] (.ldyAbsx 0x1234#16) &&
      decodesTo [0xBD#8, 0x34#8, 0x12#8] (.ldaAbsx 0x1234#16) &&
      decodesTo [0xBE#8, 0x34#8, 0x12#8] (.ldxAbsy 0x1234#16)) = true := by decide

/-- Row `Cx` of the matrix. -/
theorem test_decode_rowC :
    (decodesTo [0xC0#8, 0xFB#8] (.cpyImm 0xFB#8) &&
      decodesTo [0xC1#8, 0xFB#8] (.cmpIndx 0xFB#8) &&
      decodesTo [0xC4#8, 0xFB#8] (.cpyZp 0xFB#8) &&
      decodesTo [0xC5#8, 0xFB#8] (.cmpZp 0xFB#8) &&
      decodesTo [0xC6#8, 0xFB#8] (.decZp 0xFB#8) &&
      decodesTo [0xC8#8] .iny &&
      decodesTo [0xC9#8, 0xFB#8] (.cmpImm 0xFB#8) &&
      decodesTo [0xCA#8] .dex &&
      decodesTo [0xCC#8, 0x34#8, 0x12#8] (.cpyAbs 0x1234#16) &&
      decodesTo [0xCD#8, 0x34#8, 0x12#8] (.cmpAbs 0x1234#16) &&
      decodesTo [0xCE#8, 0x34#8, 0x12#8] (.decAbs 0x1234#16)) = true := by decide

/-- Row `Dx` of the matrix. -/
theorem test_decode_rowD :
    (decodesTo [0xD0#8, 0xFB#8] (.bne 0xFB#8) &&
      decodesTo [0xD1#8, 0xFB#8] (.cmpIndy 0xFB#8) &&
      decodesTo [0xD5#8, 0xFB#8] (.cmpZpx 0xFB#8) &&
      decodesTo [0xD6#8, 0xFB#8] (.decZpx 0xFB#8) &&
      decodesTo [0xD8#8] .cld &&
      decodesTo [0xD9#8, 0x34#8, 0x12#8] (.cmpAbsy 0x1234#16) &&
      decodesTo [0xDD#8, 0x34#8, 0x12#8] (.cmpAbsx 0x1234#16) &&
      decodesTo [0xDE#8, 0x34#8, 0x12#8] (.decAbsx 0x1234#16)) = true := by decide

/-- Row `Ex` of the matrix. -/
theorem test_decode_rowE :
    (decodesTo [0xE0#8, 0xFB#8] (.cpxImm 0xFB#8) &&
      decodesTo [0xE1#8, 0xFB#8] (.sbcIndx 0xFB#8) &&
      decodesTo [0xE4#8, 0xFB#8] (.cpxZp 0xFB#8) &&
      decodesTo [0xE5#8, 0xFB#8] (.sbcZp 0xFB#8) &&
      decodesTo [0xE6#8, 0xFB#8] (.incZp 0xFB#8) &&
      decodesTo [0xE8#8] .inx &&
      decodesTo [0xE9#8, 0xFB#8] (.sbcImm 0xFB#8) &&
      decodesTo [0xEA#8] .nop &&
      decodesTo [0xEC#8, 0x34#8, 0x12#8] (.cpxAbs 0x1234#16) &&
      decodesTo [0xED#8, 0x34#8, 0x12#8] (.sbcAbs 0x1234#16) &&
      decodesTo [0xEE#8, 0x34#8, 0x12#8] (.incAbs 0x1234#16)) = true := by decide

/-- Row `Fx` of the matrix. -/
theorem test_decode_rowF :
    (decodesTo [0xF0#8, 0xFB#8] (.beq 0xFB#8) &&
      decodesTo [0xF1#8, 0xFB#8] (.sbcIndy 0xFB#8) &&
      decodesTo [0xF5#8, 0xFB#8] (.sbcZpx 0xFB#8) &&
      decodesTo [0xF6#8, 0xFB#8] (.incZpx 0xFB#8) &&
      decodesTo [0xF8#8] .sed &&
      decodesTo [0xF9#8, 0x34#8, 0x12#8] (.sbcAbsy 0x1234#16) &&
      decodesTo [0xFD#8, 0x34#8, 0x12#8] (.sbcAbsx 0x1234#16) &&
      decodesTo [0xFE#8, 0x34#8, 0x12#8] (.incAbsx 0x1234#16)) = true := by decide

theorem test_decode_undefined :
    decode [0x02#8, 0x00#8] = .undefinedOpcode 0x02#8 ∧ decode [0x80#8, 0x00#8] = .undefinedOpcode 0x80#8 ∧
      decode [0xFF#8] = .undefinedOpcode 0xFF#8 := by decide

theorem test_decode_too_short : decode [] = .tooShort ∧ decode [0xA9#8] = .tooShort ∧ decode [0x4C#8, 0x00#8] = .tooShort := by decide

/-- The encoder on the two program images of the document, E7 and E8. -/
theorem test_encode_E7_E8 :
    encode (.ldaImm 0x05#8) ++ encode (.staAbs 0x2000#16) ++ encode .nop = [0xA9#8, 0x05#8, 0x8D#8, 0x00#8, 0x20#8, 0xEA#8] ∧
      encode (.ldxImm 0x00#8) ++ encode .inx ++ encode (.cpxImm 0x03#8) ++ encode (.bne 0xFB#8) =
        [0xA2#8, 0x00#8, 0xE8#8, 0xE0#8, 0x03#8, 0xD0#8, 0xFB#8] := by decide

/-- The displacement of E8's loop, and a target out of range (30_encoding.md R57). -/
theorem test_branch_displacement :
    branchDisplacement 0x8005#16 0x8002#16 = some 0xFB#8 ∧ branchDisplacement 0x8000#16 0x8082#16 = none := by decide

/-! ## Halt, fault, wait and fetch corners -/

/-- T-SY3. -/
theorem test_undefined_SY3 :
    undefinedAfter (step (code 0x8000#16 [0x02#8] []))
      (fun o a t => o == 0x02#8 && a == 0x8000#16 && t.run == .faulted && t.pc == 0x8000#16) = true := by decide

/-- T-SY8: an opcode fetched from the console. -/
theorem test_fetch_console_SY8 :
    after (step { code 0x2000#16 [] [] with input := .ofList [0xE8#8, 0x01#8] })
      (fun t => t.x == 0x01#8 && t.pc == 0x2001#16 && t.input == .ofList [0x01#8]) = true := by decide

/-- T-SY10. -/
theorem test_fetch_waits_SY10 : waits (step (code 0x2000#16 [] [])) = true := by decide

/-- T-LS20. -/
theorem test_load_waits_LS20 : waits (step (code 0x8000#16 [0xAD#8, 0x00#8, 0x20#8] [])) = true := by decide

/-- T-M1: the operand's high byte and the datum both come from the console, in that order. -/
theorem test_bus_order_M1 :
    after (step { State.reset with pc := 0x1FFE#16, ram := [(0x1FFE, 0xAD#8)], input := .ofList [0x20#8, 0x41#8] })
      (fun t => t.a == 0x41#8 && t.pc == 0x2001#16 && t.input == .empty) = true := by decide

/-- R34 with an infinite `INPUT`: LDA `0x2000` takes its next byte, whatever it is. -/
theorem test_endless_input_R34 :
    ∃ t, step { code 0x8000#16 [0xAD#8, 0x00#8, 0x20#8] [] with input := ⟨[], some ⟨3, 5⟩⟩ } = .next t ∧
      t.a = Config.endlessByte 3 5 ∧ t.input = ⟨[], some ⟨3, 6⟩⟩ := ⟨_, rfl, rfl, rfl⟩

/-- R63: a halted core stays as it is. -/
theorem test_halted_stays :
    after (step { code 0x8000#16 [0xE8#8] [] with run := .halted }) (fun t => t.x == 0x00#8 && t.pc == 0x8000#16) = true := by decide

/-- A placed table word runs next: the bytes `A9 05` at `PC` (log entry 2). -/
theorem test_withFetchWord : after (step (State.reset.withFetchWord 16 0x05A9)) (fun t => t.a == 0x05#8) = true := by decide

/-! ## One step, from the vectors of 95_test_vectors.md -/

/-- T-LS5: zeroPageX wraps in page 0: reads 0x0001 not 0x0101. -/
theorem test_lda_LS5 :
    after (step { code 0x8000#16 [0xB5#8, 0xFF#8] [] with x := 0x02#8, ram := cells [(0x0001, 0x99#8), (0x0101, 0x11#8)] })
      (fun t => t.pc == 0x8002#16 && t.a == 0x99#8 && t.p == 0x80#8) = true := by decide

/-- T-LS9: indirectX: pointer at 0xFF, high byte from 0x0000 (page wrap), not 0x0100. -/
theorem test_lda_LS9 :
    after (step { code 0x8000#16 [0xA1#8, 0xFE#8] [] with x := 0x01#8, ram := cells [(0x0000, 0x12#8), (0x00FF, 0x34#8), (0x0100, 0x77#8), (0x1234, 0xAB#8)] })
      (fun t => t.pc == 0x8002#16 && t.a == 0xAB#8 && t.p == 0x80#8) = true := by decide

/-- T-LS14: LDX zeroPageY wraps to 0x10. -/
theorem test_ldx_LS14 :
    after (step { code 0x8000#16 [0xB6#8, 0xF0#8] [] with y := 0x20#8, ram := cells [(0x0010, 0x81#8)] })
      (fun t => t.pc == 0x8002#16 && t.x == 0x81#8 && t.p == 0x80#8) = true := by decide

/-- T-LS15: LDX absoluteY. -/
theorem test_ldx_LS15 :
    after (step { code 0x8000#16 [0xBE#8, 0x00#8, 0x02#8] [] with y := 0x03#8, ram := cells [(0x0203, 0x01#8)] })
      (fun t => t.pc == 0x8003#16 && t.x == 0x01#8) = true := by decide

/-- T-LS18: LDY absoluteX. -/
theorem test_ldy_LS18 :
    after (step { code 0x8000#16 [0xBC#8, 0x00#8, 0x03#8] [] with x := 0xFF#8, ram := cells [(0x03FF, 0x12#8)] })
      (fun t => t.pc == 0x8003#16 && t.y == 0x12#8) = true := by decide

/-- T-LS30: STA sets no flag even when storing zero. -/
theorem test_sta_LS30 :
    after (step { code 0x8000#16 [0x85#8, 0x10#8] [] with a := 0x00#8, p := 0x00#8, ram := cells [(0x0010, 0xFF#8)] })
      (fun t => t.pc == 0x8002#16 && peek t 0x0010#16 == some 0x00#8) = true := by decide

/-- T-LS31: store to console register. -/
theorem test_sta_LS31 :
    after (step { code 0x8000#16 [0x8D#8, 0x00#8, 0x20#8] [] with a := 0x48#8 })
      (fun t => t.pc == 0x8003#16 && t.output == [0x48#8]) = true := by decide

/-- T-LS40: STX zeroPageY wraps to 0x01. -/
theorem test_stx_LS40 :
    after (step { code 0x8000#16 [0x96#8, 0x10#8] [] with x := 0x77#8, y := 0xF1#8 })
      (fun t => t.pc == 0x8002#16 && peek t 0x0001#16 == some 0x77#8) = true := by decide

/-- T-LS44: STY to the console. -/
theorem test_sty_LS44 :
    after (step { code 0x8000#16 [0x8C#8, 0x00#8, 0x20#8] [] with y := 0x0A#8 })
      (fun t => t.pc == 0x8003#16 && t.output == [0x0A#8]) = true := by decide

/-- T-LS50: TAX. -/
theorem test_tax_LS50 :
    after (step { code 0x8000#16 [0xAA#8] [] with a := 0x80#8, x := 0x01#8 })
      (fun t => t.pc == 0x8001#16 && t.x == 0x80#8 && t.p == 0x80#8) = true := by decide

/-- T-LS51: TAY zero. -/
theorem test_tay_LS51 :
    after (step { code 0x8000#16 [0xA8#8] [] with a := 0x00#8, y := 0x01#8 })
      (fun t => t.pc == 0x8001#16 && t.y == 0x00#8 && t.p == 0x02#8) = true := by decide

/-- T-LS52: TXA. -/
theorem test_txa_LS52 :
    after (step { code 0x8000#16 [0x8A#8] [] with a := 0x80#8, x := 0x7F#8, p := 0x80#8 })
      (fun t => t.pc == 0x8001#16 && t.a == 0x7F#8 && t.p == 0x00#8) = true := by decide

/-- T-LS53: TYA. -/
theorem test_tya_LS53 :
    after (step { code 0x8000#16 [0x98#8] [] with y := 0xFF#8 })
      (fun t => t.pc == 0x8001#16 && t.a == 0xFF#8 && t.p == 0x80#8) = true := by decide

/-- T-LS54: TSX with the reset value of S: Z set. -/
theorem test_tsx_LS54 :
    after (step { code 0x8000#16 [0xBA#8] [] with x := 0x55#8, s := 0x00#8 })
      (fun t => t.pc == 0x8001#16 && t.x == 0x00#8 && t.p == 0x02#8) = true := by decide

/-- T-LS56: TXS sets no flag, even with zero. -/
theorem test_txs_LS56 :
    after (step { code 0x8000#16 [0x9A#8] [] with x := 0x00#8, s := 0x40#8, p := 0x80#8 })
      (fun t => t.pc == 0x8001#16 && t.s == 0x00#8) = true := by decide

/-- T-AR1: document example: V set, C clear (also N set). -/
theorem test_adc_AR1 :
    after (step { code 0x8000#16 [0x69#8, 0x01#8] [] with a := 0x7F#8 })
      (fun t => t.pc == 0x8002#16 && t.a == 0x80#8 && t.p == 0xC0#8) = true := by decide

/-- T-AR12: ADC indirectY with carry in. -/
theorem test_adc_AR12 :
    after (step { code 0x8000#16 [0x71#8, 0x10#8] [] with a := 0x10#8, y := 0x02#8, p := 0x01#8, ram := cells [(0x0010, 0x00#8), (0x0011, 0x03#8), (0x0302, 0x20#8)] })
      (fun t => t.pc == 0x8002#16 && t.a == 0x31#8 && t.p == 0x00#8) = true := by decide

/-- T-AR23: -128 - 1: V. -/
theorem test_sbc_AR23 :
    after (step { code 0x8000#16 [0xE9#8, 0x01#8] [] with a := 0x80#8, p := 0x01#8 })
      (fun t => t.pc == 0x8002#16 && t.a == 0x7F#8 && t.p == 0x41#8) = true := by decide

/-- T-AR27: 0-255-1 = -256: result 0, C clear, Z set. -/
theorem test_sbc_AR27 :
    after (step { code 0x8000#16 [0xE9#8, 0xFF#8] [] with a := 0x00#8, p := 0x00#8 })
      (fun t => t.pc == 0x8002#16 && t.p == 0x02#8) = true := by decide

/-- T-AR43: 0 - 0x80 = 0x80: N set though A>=m is false. -/
theorem test_cmp_AR43 :
    after (step { code 0x8000#16 [0xC9#8, 0x80#8] [] with a := 0x00#8 })
      (fun t => t.pc == 0x8002#16 && t.p == 0x80#8) = true := by decide

/-- T-AR46: CMP zeroPage compares with RAM[0x10], not with 0x10 (D3). -/
theorem test_cmp_AR46 :
    after (step { code 0x8000#16 [0xC5#8, 0x10#8] [] with a := 0x42#8, ram := cells [(0x0010, 0x42#8)] })
      (fun t => t.pc == 0x8002#16 && t.p == 0x03#8) = true := by decide

/-- T-AR51: CPX zeroPage. -/
theorem test_cpx_AR51 :
    after (step { code 0x8000#16 [0xE4#8, 0x10#8] [] with x := 0x80#8, ram := cells [(0x0010, 0x7F#8)] })
      (fun t => t.pc == 0x8002#16 && t.p == 0x01#8) = true := by decide

/-- T-AR54: CPY zeroPage. -/
theorem test_cpy_AR54 :
    after (step { code 0x8000#16 [0xC4#8, 0x10#8] [] with y := 0x7F#8, ram := cells [(0x0010, 0x80#8)] })
      (fun t => t.pc == 0x8002#16 && t.p == 0x80#8) = true := by decide

/-- T-AR60: INC wraps to 0; C untouched. -/
theorem test_inc_AR60 :
    after (step { code 0x8000#16 [0xE6#8, 0x10#8] [] with p := 0x01#8, ram := cells [(0x0010, 0xFF#8)] })
      (fun t => t.pc == 0x8002#16 && t.p == 0x03#8 && peek t 0x0010#16 == some 0x00#8) = true := by decide

/-- T-AR63: INC on program storage: write discarded, Z still set from the result. -/
theorem test_inc_AR63 :
    after (step (code 0x8000#16 [0xEE#8, 0x00#8, 0x90#8] [(0x1000, 0xFF#8)]))
      (fun t => t.pc == 0x8003#16 && t.p == 0x02#8 && peek t 0x9000#16 == some 0xFF#8) = true := by decide

/-- T-AR66: DEC wraps to 0xFF. -/
theorem test_dec_AR66 :
    after (step { code 0x8000#16 [0xC6#8, 0x10#8] [] with ram := cells [(0x0010, 0x00#8)] })
      (fun t => t.pc == 0x8002#16 && t.p == 0x80#8 && peek t 0x0010#16 == some 0xFF#8) = true := by decide

/-- T-AR70: DEC absoluteX. -/
theorem test_dec_AR70 :
    after (step { code 0x8000#16 [0xDE#8, 0xFF#8, 0x01#8] [] with x := 0x01#8, ram := cells [(0x0200, 0x10#8)] })
      (fun t => t.pc == 0x8003#16 && peek t 0x0200#16 == some 0x0F#8) = true := by decide

/-- T-AR71: INX wraps; C untouched. -/
theorem test_inx_AR71 :
    after (step { code 0x8000#16 [0xE8#8] [] with x := 0xFF#8, p := 0x01#8 })
      (fun t => t.pc == 0x8001#16 && t.x == 0x00#8 && t.p == 0x03#8) = true := by decide

/-- T-AR73: INY wraps. -/
theorem test_iny_AR73 :
    after (step { code 0x8000#16 [0xC8#8] [] with y := 0xFF#8 })
      (fun t => t.pc == 0x8001#16 && t.y == 0x00#8 && t.p == 0x02#8) = true := by decide

/-- T-AR75: DEX wraps. -/
theorem test_dex_AR75 :
    after (step { code 0x8000#16 [0xCA#8] [] with x := 0x00#8 })
      (fun t => t.pc == 0x8001#16 && t.x == 0xFF#8 && t.p == 0x80#8) = true := by decide

/-- T-AR77: DEY wraps. -/
theorem test_dey_AR77 :
    after (step { code 0x8000#16 [0x88#8] [] with y := 0x00#8 })
      (fun t => t.pc == 0x8001#16 && t.y == 0xFF#8 && t.p == 0x80#8) = true := by decide

/-- T-LG2: AND; C V untouched. -/
theorem test_and_LG2 :
    after (step { code 0x8000#16 [0x29#8, 0xF0#8] [] with a := 0xFF#8, p := 0x41#8 })
      (fun t => t.pc == 0x8002#16 && t.a == 0xF0#8 && t.p == 0xC1#8) = true := by decide

/-- T-LG4: AND absoluteY. -/
theorem test_and_LG4 :
    after (step { code 0x8000#16 [0x39#8, 0x00#8, 0x02#8] [] with a := 0xFF#8, y := 0x01#8, ram := cells [(0x0201, 0x7F#8)] })
      (fun t => t.pc == 0x8003#16 && t.a == 0x7F#8) = true := by decide

/-- T-LG7: ORA indirectX. -/
theorem test_ora_LG7 :
    after (step { code 0x8000#16 [0x01#8, 0x10#8] [] with a := 0x0F#8, x := 0x00#8, ram := cells [(0x0010, 0x00#8), (0x0011, 0x02#8), (0x0200, 0xF0#8)] })
      (fun t => t.pc == 0x8002#16 && t.a == 0xFF#8 && t.p == 0x80#8) = true := by decide

/-- T-LG10: EOR zeroPageX wraps. -/
theorem test_eor_LG10 :
    after (step { code 0x8000#16 [0x55#8, 0x10#8] [] with a := 0xAA#8, x := 0xF0#8, ram := cells [(0x0000, 0x55#8)] })
      (fun t => t.pc == 0x8002#16 && t.a == 0xFF#8 && t.p == 0x80#8) = true := by decide

/-- T-LG11: BIT: A&m=0 so Z; N V from m; A unchanged. -/
theorem test_bit_LG11 :
    after (step { code 0x8000#16 [0x24#8, 0x10#8] [] with a := 0x01#8, ram := cells [(0x0010, 0xC0#8)] })
      (fun t => t.pc == 0x8002#16 && t.p == 0xC2#8) = true := by decide

/-- T-LG13: BIT absolute: V only; C untouched. -/
theorem test_bit_LG13 :
    after (step { code 0x8000#16 [0x2C#8, 0x00#8, 0x02#8] [] with a := 0x40#8, p := 0x01#8, ram := cells [(0x0200, 0x40#8)] })
      (fun t => t.pc == 0x8003#16 && t.p == 0x41#8) = true := by decide

/-- T-LG20: ASL A: bit 7 to C, result zero. -/
theorem test_asl_LG20 :
    after (step { code 0x8000#16 [0x0A#8] [] with a := 0x80#8 })
      (fun t => t.pc == 0x8001#16 && t.a == 0x00#8 && t.p == 0x03#8) = true := by decide

/-- T-LG23: ASL absoluteX. -/
theorem test_asl_LG23 :
    after (step { code 0x8000#16 [0x1E#8, 0x00#8, 0x02#8] [] with x := 0x01#8, ram := cells [(0x0201, 0x01#8)] })
      (fun t => t.pc == 0x8003#16 && peek t 0x0201#16 == some 0x02#8) = true := by decide

/-- T-LG25: LSR A: N always cleared. -/
theorem test_lsr_LG25 :
    after (step { code 0x8000#16 [0x4A#8] [] with a := 0xFF#8, p := 0x80#8 })
      (fun t => t.pc == 0x8001#16 && t.a == 0x7F#8 && t.p == 0x01#8) = true := by decide

/-- T-LG27: LSR on program storage: flags change, byte does not. -/
theorem test_lsr_LG27 :
    after (step (code 0x8000#16 [0x4E#8, 0x00#8, 0x90#8] [(0x1000, 0x03#8)]))
      (fun t => t.pc == 0x8003#16 && t.p == 0x01#8 && peek t 0x9000#16 == some 0x03#8) = true := by decide

/-- T-LG30: ROL A. -/
theorem test_rol_LG30 :
    after (step { code 0x8000#16 [0x2A#8] [] with a := 0x40#8, p := 0x01#8 })
      (fun t => t.pc == 0x8001#16 && t.a == 0x81#8 && t.p == 0x80#8) = true := by decide

/-- T-LG31: ROL zeroPageX. -/
theorem test_rol_LG31 :
    after (step { code 0x8000#16 [0x36#8, 0x10#8] [] with x := 0x01#8, p := 0x01#8, ram := cells [(0x0011, 0x00#8)] })
      (fun t => t.pc == 0x8002#16 && t.p == 0x00#8 && peek t 0x0011#16 == some 0x01#8) = true := by decide

/-- T-LG32: ROR A: C in to bit 7, bit 0 to C. -/
theorem test_ror_LG32 :
    after (step { code 0x8000#16 [0x6A#8] [] with a := 0x01#8, p := 0x01#8 })
      (fun t => t.pc == 0x8001#16 && t.a == 0x80#8 && t.p == 0x81#8) = true := by decide

/-- T-LG36: ROR zeroPage. -/
theorem test_ror_LG36 :
    after (step { code 0x8000#16 [0x66#8, 0x10#8] [] with p := 0x01#8, ram := cells [(0x0010, 0x00#8)] })
      (fun t => t.pc == 0x8002#16 && t.p == 0x80#8 && peek t 0x0010#16 == some 0x80#8) = true := by decide

/-- T-BR1: document example: taken, +127 from the byte after the branch (0x8002). -/
theorem test_bne_BR1 :
    after (step { code 0x8000#16 [0xD0#8, 0x7F#8] [] with p := 0x00#8 })
      (fun t => t.pc == 0x8081#16) = true := by decide

/-- T-BR2: document example: taken, -128 from 0x8002. -/
theorem test_bne_BR2 :
    after (step { code 0x8000#16 [0xD0#8, 0x80#8] [] with p := 0x00#8 })
      (fun t => t.pc == 0x7F82#16) = true := by decide

/-- T-BR8: BEQ not taken (every other flag set). -/
theorem test_beq_BR8 :
    after (step { code 0x8000#16 [0xF0#8, 0x10#8] [] with p := 0xFD#8 })
      (fun t => t.pc == 0x8002#16) = true := by decide

/-- T-BR7: BEQ taken. -/
theorem test_beq_BR7 :
    after (step { code 0x8000#16 [0xF0#8, 0x10#8] [] with p := 0x02#8 })
      (fun t => t.pc == 0x8012#16) = true := by decide

/-- T-BR9: BCC taken. -/
theorem test_bcc_BR9 :
    after (step { code 0x8000#16 [0x90#8, 0x10#8] [] with p := 0x00#8 })
      (fun t => t.pc == 0x8012#16) = true := by decide

/-- T-BR11: BCS taken. -/
theorem test_bcs_BR11 :
    after (step { code 0x8000#16 [0xB0#8, 0x10#8] [] with p := 0x01#8 })
      (fun t => t.pc == 0x8012#16) = true := by decide

/-- T-BR13: BMI taken, backward. -/
theorem test_bmi_BR13 :
    after (step { code 0x8000#16 [0x30#8, 0xF0#8] [] with p := 0x80#8 })
      (fun t => t.pc == 0x7FF2#16) = true := by decide

/-- T-BR15: BPL taken. -/
theorem test_bpl_BR15 :
    after (step { code 0x8000#16 [0x10#8, 0x10#8] [] with p := 0x00#8 })
      (fun t => t.pc == 0x8012#16) = true := by decide

/-- T-BR17: BVC taken. -/
theorem test_bvc_BR17 :
    after (step { code 0x8000#16 [0x50#8, 0x10#8] [] with p := 0x00#8 })
      (fun t => t.pc == 0x8012#16) = true := by decide

/-- T-BR19: BVS taken. -/
theorem test_bvs_BR19 :
    after (step { code 0x8000#16 [0x70#8, 0x10#8] [] with p := 0x40#8 })
      (fun t => t.pc == 0x8012#16) = true := by decide

/-- T-JP2: JMP indirect, pointer not at a page end. -/
theorem test_jmp_JP2 :
    after (step { code 0x8000#16 [0x6C#8, 0x00#8, 0x03#8] [] with ram := cells [(0x0300, 0x78#8), (0x0301, 0x56#8)] })
      (fun t => t.pc == 0x5678#16) = true := by decide

/-- T-JP3: document example: pointer 0x02FF, high byte from 0x0200 not 0x0300. -/
theorem test_jmp_JP3 :
    after (step { code 0x8000#16 [0x6C#8, 0xFF#8, 0x02#8] [] with ram := cells [(0x0200, 0x12#8), (0x02FF, 0x34#8), (0x0300, 0x56#8)] })
      (fun t => t.pc == 0x1234#16) = true := by decide

/-- T-JP5: JSR at S=0: pushes 0x8002, high byte first at the lower address. -/
theorem test_jsr_JP5 :
    after (step (code 0x8000#16 [0x20#8, 0x10#8, 0x80#8] []))
      (fun t => t.pc == 0x8010#16 && t.s == 0x02#8 && peek t 0x0100#16 == some 0x80#8 && peek t 0x0101#16 == some 0x02#8) = true := by decide

/-- T-JP7: JSR at S=0xFF: high byte at 0x01FF, S wraps, low byte at 0x0100. -/
theorem test_jsr_JP7 :
    after (step { code 0x8000#16 [0x20#8, 0x00#8, 0x90#8] [] with s := 0xFF#8 })
      (fun t => t.pc == 0x9000#16 && t.s == 0x01#8 && peek t 0x0100#16 == some 0x02#8 && peek t 0x01FF#16 == some 0x80#8) = true := by decide

/-- T-JP6: RTS: pulls 0x8002, adds 1. -/
theorem test_rts_JP6 :
    after (step { code 0x8010#16 [0x60#8] [] with s := 0x02#8, ram := cells [(0x0100, 0x80#8), (0x0101, 0x02#8)] })
      (fun t => t.pc == 0x8003#16 && t.s == 0x00#8) = true := by decide

/-- T-JP10: RTS: 0xFFFF+1 wraps to 0x0000. -/
theorem test_rts_JP10 :
    after (step { code 0x9000#16 [0x60#8] [] with s := 0x02#8, ram := cells [(0x0100, 0xFF#8), (0x0101, 0xFF#8)] })
      (fun t => t.pc == 0x0000#16 && t.s == 0x00#8) = true := by decide

/-- T-S2: document: S wraps 0xFF to 0x00 on push. -/
theorem test_pha_S2 :
    after (step { code 0x8000#16 [0x48#8] [] with a := 0xAB#8, s := 0xFF#8 })
      (fun t => t.pc == 0x8001#16 && t.s == 0x00#8 && peek t 0x01FF#16 == some 0xAB#8) = true := by decide

/-- T-S4: document: S wraps 0x00 to 0xFF on pull; N set. -/
theorem test_pla_S4 :
    after (step { code 0x8000#16 [0x68#8] [] with s := 0x00#8, ram := cells [(0x01FF, 0x80#8)] })
      (fun t => t.pc == 0x8001#16 && t.a == 0x80#8 && t.s == 0xFF#8 && t.p == 0x80#8) = true := by decide

/-- T-S6: PHP. -/
theorem test_php_S6 :
    after (step { code 0x8000#16 [0x08#8] [] with s := 0x10#8, p := 0xC3#8 })
      (fun t => t.pc == 0x8001#16 && t.s == 0x11#8 && peek t 0x0110#16 == some 0xF3#8) = true := by decide

/-- T-S8: PLP: bit 5 set, bit 4 cleared. -/
theorem test_plp_S8 :
    after (step { code 0x8000#16 [0x28#8] [] with s := 0x01#8, ram := cells [(0x0100, 0xFF#8)] })
      (fun t => t.pc == 0x8001#16 && t.s == 0x00#8 && t.p == 0xEF#8) = true := by decide

/-- T-S12: BRK: pushes PC=0x8001 (high, low), then P with bits 4 and 5 set, sets I, loads the vector. -/
theorem test_brk_S12 :
    after (step { code 0x8000#16 [0x00#8] [(0x7FFE, 0x00#8), (0x7FFF, 0x90#8)] with p := 0x01#8 })
      (fun t => t.pc == 0x9000#16 && t.s == 0x03#8 && t.p == 0x05#8 && peek t 0x0100#16 == some 0x80#8 && peek t 0x0101#16 == some 0x01#8 && peek t 0x0102#16 == some 0x31#8) = true := by decide

/-- T-S14: BRK across the wrap: 0x01FE, 0x01FF, 0x0100. -/
theorem test_brk_S14 :
    after (step { code 0x8000#16 [0x00#8] [(0x7FFE, 0x34#8), (0x7FFF, 0x12#8)] with s := 0xFE#8, p := 0xC0#8 })
      (fun t => t.pc == 0x1234#16 && t.s == 0x01#8 && t.p == 0xC4#8 && peek t 0x0100#16 == some 0xF0#8 && peek t 0x01FE#16 == some 0x80#8 && peek t 0x01FF#16 == some 0x01#8) = true := by decide

/-- T-S13: RTI: P = 0x31 with bit 5 set and bit 4 cleared = 0x21, PC=0x8001 with no increment. -/
theorem test_rti_S13 :
    after (step { code 0x9000#16 [0x40#8] [] with s := 0x03#8, p := 0x05#8, ram := cells [(0x0100, 0x80#8), (0x0101, 0x01#8), (0x0102, 0x31#8)] })
      (fun t => t.pc == 0x8001#16 && t.s == 0x00#8 && t.p == 0x21#8) = true := by decide

/-- T-S16: RTI on the empty stack: pulls 0x01FF, 0x01FE, 0x01FD. -/
theorem test_rti_S16 :
    after (step { code 0x9000#16 [0x40#8] [] with s := 0x00#8 })
      (fun t => t.pc == 0x0000#16 && t.s == 0xFD#8 && t.p == 0x20#8) = true := by decide

/-- T-FL1: CLC clears bit 0 only. -/
theorem test_clc_FL1 :
    after (step { code 0x8000#16 [0x18#8] [] with p := 0xFF#8 })
      (fun t => t.pc == 0x8001#16 && t.p == 0xFE#8) = true := by decide

/-- T-FL2: SEC. -/
theorem test_sec_FL2 :
    after (step { code 0x8000#16 [0x38#8] [] with p := 0x00#8 })
      (fun t => t.pc == 0x8001#16 && t.p == 0x01#8) = true := by decide

/-- T-FL3: CLI clears bit 2 only. -/
theorem test_cli_FL3 :
    after (step { code 0x8000#16 [0x58#8] [] with p := 0xFF#8 })
      (fun t => t.pc == 0x8001#16 && t.p == 0xFB#8) = true := by decide

/-- T-FL4: SEI. -/
theorem test_sei_FL4 :
    after (step { code 0x8000#16 [0x78#8] [] with p := 0x00#8 })
      (fun t => t.pc == 0x8001#16 && t.p == 0x04#8) = true := by decide

/-- T-FL5: CLV clears bit 6 only. -/
theorem test_clv_FL5 :
    after (step { code 0x8000#16 [0xB8#8] [] with p := 0xFF#8 })
      (fun t => t.pc == 0x8001#16 && t.p == 0xBF#8) = true := by decide

/-- T-FL6: CLD clears bit 3 only. -/
theorem test_cld_FL6 :
    after (step { code 0x8000#16 [0xD8#8] [] with p := 0xFF#8 })
      (fun t => t.pc == 0x8001#16 && t.p == 0xF7#8) = true := by decide

/-- T-FL7: SED. -/
theorem test_sed_FL7 :
    after (step { code 0x8000#16 [0xF8#8] [] with p := 0x00#8 })
      (fun t => t.pc == 0x8001#16 && t.p == 0x08#8) = true := by decide

/-- T-SY1: NOP opcode: halt; PC stays (D1). -/
theorem test_nop_SY1 :
    after (step { code 0x8000#16 [0xEA#8] [] with a := 0x01#8, p := 0x81#8 })
      (fun t => t.run == .halted) = true := by decide

/-- T-SY2: NOP as no-operation. -/
theorem test_nop_SY2 :
    after (step { nopRuns (code 0x8000#16 [0xEA#8] []) with a := 0x01#8, p := 0x81#8 })
      (fun t => t.pc == 0x8001#16) = true := by decide

/-! ## Witnesses: for every statement with hypotheses, a state and operands that meet them together -/

/-- A running state with two input bytes, the stack about to wrap, a pointer and data in RAM. -/
def busy : State :=
  { State.reset with
    pc := 0x0400#16, a := 0x80#8, x := 0x01#8, y := 0x02#8, s := 0xFE#8, p := 0xC3#8
    input := .ofList [0x41#8, 0x42#8], par := { Params.default with input := .ofList [0x41#8, 0x42#8] }
    ram := cells [(0x0010, 0xFF#8), (0x0011, 0x03#8), (0x02FF, 0x34#8), (0x0200, 0x12#8), (0x01FF, 0x77#8)] }

/-- The same with no input left. -/
def dry : State := { busy with input := .empty }

/-- The same with an endless input. -/
def fed : State := { busy with input := ⟨[], some ⟨3, 5⟩⟩ }

theorem witness_WarmResetEqualsColdReset : ∃ t, Host.Core.run Sys2Proof.core 2 busy = .next t := ⟨_, rfl⟩

theorem witness_BusReadFollowsTheAddressMap :
    (0x1FFF#16).toNat < 0x2000 ∧ (0x2000#16).toNat = 0x2000 ∧ dry.input = .empty ∧ busy.input = ⟨0x41#8 :: [0x42#8], none⟩ ∧
      fed.input = ⟨[], some ⟨3, 5⟩⟩ ∧
      0x2000 < (0x2001#16).toNat ∧ 0x2000 < (0xFFFF#16).toNat := by decide

theorem witness_BusWriteFollowsTheAddressMap :
    Memory.wf 0x2000 busy.ram = true ∧ (0x1FFF#16).toNat < 0x2000 ∧ (0x2000#16).toNat = 0x2000 ∧
      0x2000 < (0x2001#16).toNat := by decide

theorem witness_ImageIsPaddedOrRefused :
    (List.replicate 0x8000 0xEA#8).length ≤ 0x8000 ∧ 0x7FFF < 0x8000 ∧ 0x8000 < (List.replicate 0x8001 0xEA#8).length := by
  simp only [List.length_replicate]
  omega

/-- The pointer at `0x02FF`, the plain and the wrapping read, and a low byte that is not `0xFF`. -/
theorem witness_SixteenBitReadsAndThePageWrap :
    busRead 0x02FF#16 busy = some (0x34#8, busy) ∧ busRead (BitVec.ofNat 16 ((0x02FF + 1) % 65536)) busy = some (0x00#8, busy) ∧
      busRead ((0x02FF#16 &&& 0xFF00#16) ||| ((0x02FF#16 + 1) &&& 0x00FF#16)) busy = some (0x12#8, busy) ∧
      loByte 0x0010#16 ≠ 0xFF#8 := by decide

theorem witness_PushAndPullByteOnTheStackPage :
    Memory.wf 0x2000 busy.ram = true ∧ (0x01FF#16 : Addr) ≠ 0x0100#16 + zext16 busy.s := by decide

theorem witness_PushedWordComesBack :
    Memory.wf 0x2000 busy.ram = true ∧ (0x0101#16 : Addr) ≠ 0x0100#16 + zext16 busy.s ∧
      (0x0101#16 : Addr) ≠ 0x0100#16 + zext16 (busy.s + 1) := by decide

theorem witness_ResolverOfPointerModes :
    read16Bug 0x02FF#16 { busy with pc := busy.pc + 3 } = some (0x1234#16, { busy with pc := busy.pc + 3 }) := by decide

theorem witness_ResolverMovesOnlyThePc :
    resolve (.indirectY 0x10#8) busy = some (.addr 0x0401#16, { busy with pc := 0x0402#16 }) ∧
      resolve (.relative 0x80#8) busy = some (.disp 0x80#8, { busy with pc := 0x0401#16 }) := by decide

theorem witness_DecodeOfEncodeIsTheInstruction : (Instr.ldaAbsx 0xFFFF#16).wf = true := by decide

theorem witness_DecodedBytesAreTheEncoding :
    decode [0xBD#8, 0xFF#8, 0xFF#8, 0x00#8] = .instr (.ldaAbsx 0xFFFF#16) [0x00#8] := by decide

theorem witness_MnemonicTableAndInstructionsAgree : admits .stx (.zeroPageY 0xFF#8) = true := by decide

theorem witness_StepRunsTheFetchedInstruction :
    (code 0x8000#16 [0xA9#8, 0x05#8] []).run = .running ∧
      busRead 0x8000#16 (code 0x8000#16 [0xA9#8, 0x05#8] []) = some (0xA9#8, code 0x8000#16 [0xA9#8, 0x05#8] []) ∧
      ¬(true = true ∧ 0xA9#8 = 0xEA#8) ∧ opcodeLength 0xA9#8 = some 2 ∧
      readBytes (2 - 1) 0x8001#16 (code 0x8000#16 [0xA9#8, 0x05#8] []) = some ([0x05#8], code 0x8000#16 [0xA9#8, 0x05#8] []) ∧
      decode [0xA9#8, 0x05#8] = .instr (.ldaImm 0x05#8) [] := by decide

theorem witness_StepRunsTheInstructionInMemory :
    (code 0x8000#16 [0xA9#8, 0x05#8] []).run = .running ∧ ¬(true = true ∧ Instr.ldaImm 0x05#8 = .nop) ∧
      ∀ (k : Nat) (b : Byte), (encode (.ldaImm 0x05#8))[k]? = some b →
        peek (code 0x8000#16 [0xA9#8, 0x05#8] []) (0x8000#16 + BitVec.ofNat 16 k) = some b := by
  refine ⟨rfl, by decide, fun k b h => ?_⟩
  match k with
  | 0 => rw [← h]; decide
  | 1 => rw [← h]; decide
  | _ + 2 => simp [encode] at h

theorem witness_PlacedWordRunsNext :
    Memory.wf 0x2000 busy.ram = true ∧ Memory.wf 0x8000 busy.par.rom = true ∧
      decodeTableWord 24 0x20008D = some (.staAbs 0x2000#16) ∧ ¬(busy.par.haltOnNop = true ∧ Instr.staAbs 0x2000#16 = .nop) := by
  decide

theorem witness_NopHaltsOrAdvances :
    (code 0x8000#16 [0xEA#8] []).run = .running ∧
      busRead 0x8000#16 (code 0x8000#16 [0xEA#8] []) = some (0xEA#8, code 0x8000#16 [0xEA#8] []) ∧
      (code 0x8000#16 [0xEA#8] []).par.haltOnNop = true ∧
      busRead 0x8000#16 (nopRuns (code 0x8000#16 [0xEA#8] [])) = some (0xEA#8, nopRuns (code 0x8000#16 [0xEA#8] [])) ∧
      (nopRuns (code 0x8000#16 [0xEA#8] [])).par.haltOnNop = false := by decide

theorem witness_RunningIsLeftOnlyByHaltOrFault :
    (code 0x8000#16 [0xEA#8] []).run = .running ∧ (∃ t, step (code 0x8000#16 [0xEA#8] []) = .next t) ∧
      ∃ u, step (code 0x8000#16 [0xFF#8] []) = .fault (.undefinedOpcode 0xFF#8 0x8000#16 u) := ⟨rfl, ⟨_, rfl⟩, _, rfl⟩

theorem witness_UndefinedOpcodeFaults :
    (code 0x8000#16 [0xFF#8] []).run = .running ∧
      busRead 0x8000#16 (code 0x8000#16 [0xFF#8] []) = some (0xFF#8, code 0x8000#16 [0xFF#8] []) ∧
      (0xFF#8).toNat ∈ undefinedOpcodes := by decide

theorem witness_StoppedCoreDoesNothing :
    ({ busy with run := .halted } : State).run ≠ .running ∧ ({ busy with run := .faulted } : State).run ≠ .running := by decide

/-- A load without input at `0x1FFE` in RAM, its operand bytes at `0x1FFF` and `0x2000`. -/
def starved : State := { State.reset with pc := 0x1FFE#16, ram := [(0x1FFE, 0xAD#8)] }

theorem witness_ConsoleReadWithoutInputWaits :
    resolve (Instr.bitAbs 0x2000#16).form dry = some (.addr 0x2000#16, { dry with pc := 0x0403#16 }) ∧
      ({ dry with pc := 0x0403#16 } : State).input = .empty ∧ ({ dry with pc := 0x2000#16 } : State).run = .running := by decide

/-- Operand bytes fetched at the console, the second and the first of them; two bytes that end below it are read. -/
theorem witness_ConsoleReadWithoutInputWaits_fetch :
    starved.run = .running ∧ busRead starved.pc starved = some (0xAD#8, starved) ∧
      ¬(starved.par.haltOnNop = true ∧ (0xAD#8 : Byte) = 0xEA#8) ∧ opcodeLength 0xAD#8 = some 3 ∧
      readBytes (3 - 1) (starved.pc + 1) starved = none ∧ starved.pc + 1 + BitVec.ofNat 16 1 = 0x2000#16 ∧
      readBytes 1 0x2000#16 starved = none ∧ readBytes 2 0x1FFE#16 starved ≠ none := by decide

/-- Both pointers of JMP indirect that touch the console, the second by the page wrap. -/
theorem witness_ConsoleReadWithoutInputWaits_pointer :
    dry.input = .empty ∧ read16Bug 0x2000#16 { dry with pc := dry.pc + 3 } = none ∧ bugHighAddr 0x20FF#16 = 0x2000#16 ∧
      read16Bug 0x20FF#16 { dry with pc := dry.pc + 3 } = none ∧ read16Bug 0x1FFF#16 dry ≠ none := by decide

theorem witness_EveryInstructionCompletesWithInput : busy.input ≠ .empty := by decide

theorem witness_EveryStepCompletesOrFaults : fed.input.endless ≠ none ∧ 2 ≤ busy.input.given.length := by decide

theorem witness_LoadsSetTheRegisterAndZN :
    resolve (Instr.ldaZp 0x10#8).form busy = some (.addr 0x0010#16, { busy with pc := 0x0402#16 }) ∧
      load (.addr 0x0010#16) { busy with pc := 0x0402#16 } = some (0xFF#8, { busy with pc := 0x0402#16 }) ∧
      (Instr.ldaZp 0x10#8).mnemonic = .lda ∧
      resolve (Instr.ldxImm 0x00#8).form busy = some (.imm 0x00#8, { busy with pc := 0x0402#16 }) ∧
      load (.imm 0x00#8) { busy with pc := 0x0402#16 } = some (0x00#8, { busy with pc := 0x0402#16 }) ∧
      (Instr.ldxImm 0x00#8).mnemonic = .ldx ∧
      resolve (Instr.ldyAbs 0x2000#16).form busy = some (.addr 0x2000#16, { busy with pc := 0x0403#16 }) ∧
      load (.addr 0x2000#16) { busy with pc := 0x0403#16 } = some (0x41#8, { busy with pc := 0x0403#16, input := .ofList [0x42#8] }) ∧
      (Instr.ldyAbs 0x2000#16).mnemonic = .ldy := by decide

theorem witness_StoresWriteTheRegister :
    (Instr.staIndy 0xFF#8).mnemonic ∈ [Mnemonic.sta, .stx, .sty] ∧ (Instr.stxZpy 0xFF#8).mnemonic ∈ [Mnemonic.sta, .stx, .sty] ∧
      (Instr.styAbs 0x1FFF#16).mnemonic ∈ [Mnemonic.sta, .stx, .sty] := by decide

theorem witness_AdcAndSbcUseTheAdder :
    resolve (Instr.adcImm 0x80#8).form busy = some (.imm 0x80#8, { busy with pc := 0x0402#16 }) ∧
      resolve (Instr.sbcImm 0x80#8).form busy = some (.imm 0x80#8, { busy with pc := 0x0402#16 }) ∧
      load (.imm 0x80#8) { busy with pc := 0x0402#16 } = some (0x80#8, { busy with pc := 0x0402#16 }) ∧
      (Instr.adcImm 0x80#8).mnemonic = .adc ∧ (Instr.sbcImm 0x80#8).mnemonic = .sbc := by decide

theorem witness_ComparesSetOnlyFlags :
    resolve (Instr.cmpZp 0x10#8).form busy = some (.addr 0x0010#16, { busy with pc := 0x0402#16 }) ∧
      resolve (Instr.cpxZp 0x10#8).form busy = some (.addr 0x0010#16, { busy with pc := 0x0402#16 }) ∧
      resolve (Instr.cpyZp 0x10#8).form busy = some (.addr 0x0010#16, { busy with pc := 0x0402#16 }) ∧
      load (.addr 0x0010#16) { busy with pc := 0x0402#16 } = some (0xFF#8, { busy with pc := 0x0402#16 }) ∧
      (Instr.cmpZp 0x10#8).mnemonic = .cmp ∧ (Instr.cpxZp 0x10#8).mnemonic = .cpx ∧ (Instr.cpyZp 0x10#8).mnemonic = .cpy := by
  decide

theorem witness_IncAndDecStepMemory :
    resolve (Instr.incZp 0x10#8).form busy = some (.addr 0x0010#16, { busy with pc := 0x0402#16 }) ∧
      resolve (Instr.decZp 0x10#8).form busy = some (.addr 0x0010#16, { busy with pc := 0x0402#16 }) ∧
      busRead 0x0010#16 { busy with pc := 0x0402#16 } = some (0xFF#8, { busy with pc := 0x0402#16 }) ∧
      (Instr.incZp 0x10#8).mnemonic = .inc ∧ (Instr.decZp 0x10#8).mnemonic = .dec := by decide

theorem witness_LogicAndBitTest :
    resolve (Instr.bitZp 0x10#8).form busy = some (.addr 0x0010#16, { busy with pc := 0x0402#16 }) ∧
      resolve (Instr.andZp 0x10#8).form busy = resolve (Instr.bitZp 0x10#8).form busy ∧
      resolve (Instr.oraZp 0x10#8).form busy = resolve (Instr.bitZp 0x10#8).form busy ∧
      resolve (Instr.eorZp 0x10#8).form busy = resolve (Instr.bitZp 0x10#8).form busy ∧
      load (.addr 0x0010#16) { busy with pc := 0x0402#16 } = some (0xFF#8, { busy with pc := 0x0402#16 }) ∧
      (Instr.bitZp 0x10#8).mnemonic = .bit ∧ (Instr.andZp 0x10#8).mnemonic = .and ∧ (Instr.oraZp 0x10#8).mnemonic = .ora ∧
      (Instr.eorZp 0x10#8).mnemonic = .eor := by decide

/-- One accumulator form and one memory form, and every mnemonic. -/
theorem witness_ShiftsMoveOneBitThroughCarry :
    resolve Instr.aslAcc.form busy = some (.none, { busy with pc := 0x0401#16 }) ∧
      resolve Instr.rorAcc.form busy = some (.none, { busy with pc := 0x0401#16 }) ∧
      load .none { busy with pc := 0x0401#16 } = some (0x80#8, { busy with pc := 0x0401#16 }) ∧
      resolve (Instr.lsrZp 0x10#8).form busy = some (.addr 0x0010#16, { busy with pc := 0x0402#16 }) ∧
      resolve (Instr.rolZp 0x10#8).form busy = some (.addr 0x0010#16, { busy with pc := 0x0402#16 }) ∧
      load (.addr 0x0010#16) { busy with pc := 0x0402#16 } = some (0xFF#8, { busy with pc := 0x0402#16 }) ∧
      Instr.aslAcc.mnemonic = .asl ∧ Instr.rorAcc.mnemonic = .ror ∧ (Instr.lsrZp 0x10#8).mnemonic = .lsr ∧
      (Instr.rolZp 0x10#8).mnemonic = .rol := by decide

theorem witness_JumpCallAndReturn :
    read16Bug 0x02FF#16 { busy with pc := busy.pc + 3 } = some (0x1234#16, { busy with pc := busy.pc + 3 }) := by decide

/-- JSR and BRK pushed from `S = 0xFE`, and a later state with other registers changed. -/
theorem witness_ReturnsUndoTheirEntries :
    Memory.wf 0x2000 busy.ram = true ∧
      (∃ t, exec (.jsr 0x9000#16) busy = .next t ∧ ({ t with a := 0x01#8 } : State).ram = t.ram ∧ ({ t with a := 0x01#8 } : State).s = t.s) ∧
      ∃ t, exec .brk busy = .next t ∧ ({ t with a := 0x01#8 } : State).ram = t.ram ∧ ({ t with a := 0x01#8 } : State).s = t.s :=
  ⟨by decide, ⟨_, rfl, rfl, rfl⟩, ⟨_, rfl, rfl, rfl⟩⟩

theorem witness_StackInstructionsPushAndPull : (0x00#8 : Byte) = Memory.read busy.ram (0x0100 + (busy.s - 1).toNat) := by decide

theorem witness_PullAfterPushRoundTrip :
    Memory.wf 0x2000 busy.ram = true ∧ (∃ t, exec .php busy = .next t) ∧ ∃ t, exec .pha busy = .next t :=
  ⟨by decide, ⟨_, rfl⟩, ⟨_, rfl⟩⟩

theorem witness_BrkEntersTheHandler : Memory.wf 0x2000 busy.ram = true := by decide

theorem witness_PcAdvancesByTheLength :
    (Instr.ldaAbs 0x0010#16).mnemonic ∉ pcWriters ∧ ∃ t, exec (.ldaAbs 0x0010#16) busy = .next t := ⟨by decide, _, rfl⟩

/-- A store is none of the writers of `A`, `X`, `Y`, `S`. -/
theorem witness_RegistersAreWrittenOnlyByTheirWriters :
    (∃ t, exec (.rolAbs 0x0010#16) busy = .next t) ∧ Mnemonic.rol ∉ accumulatorWriters ∧ (Instr.rolAbs 0x0010#16).form ≠ .accumulator ∧
      Mnemonic.rol ∉ xWriters ∧ Mnemonic.rol ∉ yWriters ∧ Mnemonic.rol ∉ stackPointerWriters :=
  ⟨⟨_, rfl⟩, by decide, by decide, by decide, by decide, by decide⟩

theorem witness_FlagsAreWrittenOnlyByTheirWriters :
    (∃ t, exec (.ldaImm 0x00#8) busy = .next t) ∧ Mnemonic.lda ∉ flagWriters .c ∧ Mnemonic.lda ∉ flagWriters .v :=
  ⟨⟨_, rfl⟩, by decide, by decide⟩

theorem witness_NonStoringInstructionsKeepMemory :
    (∃ t, exec (.cmpImm 0x00#8) busy = .next t) ∧ Mnemonic.cmp ∉ operandStores ++ pushMnemonics ∧
      (∃ t, exec .aslAcc busy = .next t) ∧ Instr.aslAcc.form = .accumulator :=
  ⟨⟨_, rfl⟩, by decide, ⟨_, rfl⟩, rfl⟩

/-- A store into RAM, one at the console and one into program storage. -/
theorem witness_OperandStoresChangeOneAddress :
    (Mnemonic.inc ∈ operandStores ∧ resolve (Instr.incAbs 0x1FFF#16).form busy = some (.addr 0x1FFF#16, advance 3 busy) ∧
        ∃ t, exec (.incAbs 0x1FFF#16) busy = .next t) ∧
      (resolve (Instr.incAbs 0x2000#16).form busy = some (.addr 0x2000#16, advance 3 busy) ∧
        ∃ t, exec (.incAbs 0x2000#16) busy = .next t) ∧
      resolve (Instr.incAbs 0x2001#16).form busy = some (.addr 0x2001#16, advance 3 busy) ∧
        ∃ t, exec (.incAbs 0x2001#16) busy = .next t :=
  ⟨⟨by decide, rfl, _, rfl⟩, ⟨rfl, _, rfl⟩, rfl, _, rfl⟩

/-- BRK from `S = 0xFE` stores at `0x01FE`, `0x01FF`, `0x0100`; `0x0101` is none of them. -/
theorem witness_PushesChangeOnlyTheStackBytes :
    (∃ t, exec .brk busy = .next t) ∧ Mnemonic.brk ∈ pushMnemonics ∧ (0x0101#16 : Addr) ≠ stackAddr busy.s ∧
      (0x0101#16 : Addr) ≠ stackAddr (busy.s + 1) ∧ (0x0101#16 : Addr) ≠ stackAddr (busy.s + 2) :=
  ⟨⟨_, rfl⟩, by decide, by decide, by decide, by decide⟩

theorem witness_ResetEstablishesTheInvariant : paramsWf { Params.default with rom := [(0x7FFD, 0x80#8)] } := by decide

theorem witness_StepKeepsTheInvariant : busy.Inv ∧ ∃ t, step busy = .next t :=
  ⟨⟨by decide, by decide, by decide, 0, rfl⟩, _, rfl⟩

theorem witness_StepOnlyExtendsTheConsoleHistory :
    ∃ t, step { code 0x8000#16 [0xEE#8, 0x00#8, 0x20#8] [] with input := .ofList [0x41#8] } = .next t := ⟨_, rfl⟩

theorem witness_BreakAndUnusedBitsAreUnobservable : busy.p &&& 0xCF#8 = 0xF3#8 &&& 0xCF#8 := by decide

theorem witness_InterruptAndDecimalAreReadOnlyByPushes :
    Instr.rti ≠ .php ∧ Instr.rti ≠ .brk ∧ busy.p &&& 0xC3#8 = 0xFF#8 &&& 0xC3#8 := by decide

theorem witness_EndlessInputNeverWaits : fed.input.endless ≠ none := by decide

end Sys2Proof.Tests
end

section
/-! Runs on an endless input (spec/00_scope.md R3, 20_memory.md R34): no step waits for the console, and
every step leaves an endless input endless. -/

namespace Sys2Proof.Machine

/-! ## What is left of the input -/

/-- What is read keeps an endless input endless and a finite one finite. -/
theorem ReadFrame.endless_isSome {s t : State} (h : ReadFrame s t) :
    t.input.endless.isSome = s.input.endless.isSome :=
  inputTail_endless h.input

/-- What a mnemonic computes from its operand keeps the input: only bus reads take bytes from it. -/
def Effect.KeepsInput : Effect → Prop
  | .target g => ∀ op u, (g op u).input = u.input
  | .value g => ∀ v u, (g v u).input = u.input
  | .step _ => True
  | .shift _ => True

theorem effect_keepsInput (m : Mnemonic) : (effect m).KeepsInput := by
  cases m <;> simp [effect, Effect.KeepsInput]

theorem did_inputTail {e : Effect} {op : Operand} {u t : State} (h : e.Did op u t) (he : e.KeepsInput) :
    inputTail t.input u.input := by
  cases e with
  | target g =>
    rw [show t = g op u from h, he op u]
    exact inputTail_refl _
  | value g =>
    obtain ⟨v, w, -, hw, -, rfl⟩ := h
    rw [he v w]
    exact hw.input
  | step g =>
    obtain ⟨v, w, -, hw, -, rfl⟩ := h
    simpa using hw.input
  | shift g =>
    obtain ⟨v, w, -, hw, -, rfl⟩ := h
    simpa using hw.input

/-- A completed instruction only takes input from its front (10_state.md R20). -/
theorem exec_inputTail {i : Instr} {s t : State} (h : exec i s = .next t) : inputTail t.input s.input := by
  obtain ⟨op, u, -, hu, -, hd⟩ := exec_next h
  exact inputTail_trans (did_inputTail hd (effect_keepsInput _)) hu.input

/-- A step with a next state only takes input from its front (10_state.md R20). -/
theorem step_inputTail {s t : State} (h : step s = .next t) : inputTail t.input s.input := by
  obtain ⟨-, rfl⟩ | ⟨-, i, u, hf, he⟩ | ⟨-, u, hf, rfl⟩ := step_cases h
  · exact inputTail_refl _
  · exact inputTail_trans (exec_inputTail he) (fetch_instr hf).1.input
  · exact (busRead_frame (fetch_halt hf).1).1.input

/-! ## When an instruction, a fetch and a step wait -/

/-- An instruction's frame completes when a byte of input is left before and after its resolver. -/
theorem Effect.run_completes {f : Form} {s : State} (e : Effect) (hs : s.input ≠ .empty)
    (hr : ∀ op u, resolve f s = some (op, u) → u.input ≠ .empty) : ∃ t, e.run f s = .next t := by
  obtain ⟨⟨op, u⟩, hu⟩ := Option.ne_none_iff_exists'.1 (resolve_ne_none (f := f) hs)
  obtain ⟨⟨v, w⟩, hv⟩ := Option.ne_none_iff_exists'.1 (load_ne_none (op := op) (hr op u hu))
  cases e with
  | target g => exact ⟨_, withTarget_next.2 ⟨op, u, hu, rfl⟩⟩
  | value g => exact ⟨_, withValue_next.2 ⟨op, u, v, w, hu, hv, rfl⟩⟩
  | step g => exact ⟨_, stepOperand_next.2 ⟨op, u, v, w, hu, hv, rfl⟩⟩
  | shift g => exact ⟨_, shiftOperand_next.2 ⟨op, u, v, w, hu, hv, rfl⟩⟩

theorem exec_completes_of_endless (i : Instr) {s : State} (hs : s.input.endless.isSome = true) :
    ∃ t, exec i s = .next t := by
  rw [exec_eq_effect]
  refine (effect i.mnemonic).run_completes (ne_empty_of_endless hs) fun op u hu => ne_empty_of_endless ?_
  rw [(resolve_frame hu).1.endless_isSome, hs]

theorem readBytes_ne_none_of_endless {n : Nat} {a : Addr} {s : State} (hs : s.input.endless.isSome = true) :
    readBytes n a s ≠ none := by
  induction n generalizing a s with
  | zero => simp [readBytes]
  | succ n ih =>
    unfold readBytes
    split
    · rename_i hb
      exact absurd (busRead_none.1 hb).2 (ne_empty_of_endless hs)
    · rename_i b t hb
      have ht : t.input.endless.isSome = true := by rw [(busRead_frame hb).1.endless_isSome, hs]
      split
      · rename_i hn
        exact absurd hn (ih ht)
      · simp

/-- A waiting fetch could not read the opcode, or read it and could not read an operand byte. -/
theorem fetch_wait {s : State} (h : fetch s = .wait) :
    busRead s.pc s = none ∨
      ∃ opc t n, busRead s.pc s = some (opc, t) ∧ opcodeLength opc = some n ∧ readBytes (n - 1) (s.pc + 1) t = none := by
  unfold fetch at h
  split at h
  · rename_i hb
    exact .inl hb
  · rename_i opc t hb
    split at h
    · simp at h
    · split at h
      · simp at h
      · rename_i n hn
        split at h
        · rename_i hr
          exact .inr ⟨opc, t, n, hb, hn, hr⟩
        · split at h <;> simp at h

theorem fetch_ne_wait_of_endless {s : State} (hs : s.input.endless.isSome = true) : fetch s ≠ .wait := by
  intro h
  obtain hb | ⟨opc, t, n, hb, -, hr⟩ := fetch_wait h
  · exact ne_empty_of_endless hs (busRead_none.1 hb).2
  · exact readBytes_ne_none_of_endless (by rw [(busRead_frame hb).1.endless_isSome, hs]) hr

/-- A step waits in its fetch or in the instruction it fetched. -/
theorem step_consoleWait {s : State} (h : step s = .fault .consoleWait) :
    fetch s = .wait ∨ ∃ i u, fetch s = .instr i u ∧ exec i u = .fault .consoleWait := by
  unfold step at h
  split at h
  · simp [stoppedStep] at h
  · simp [stoppedStep] at h
  · split at h
    · rename_i i u hf
      exact .inr ⟨i, u, hf, h⟩
    · simp [haltStep] at h
    · simp [faultStep] at h
    · rename_i hf
      exact .inl hf

theorem step_ne_consoleWait_of_endless {s : State} (hs : s.input.endless.isSome = true) :
    step s ≠ .fault .consoleWait := by
  intro h
  obtain hf | ⟨i, u, hf, he⟩ := step_consoleWait h
  · exact fetch_ne_wait_of_endless hs hf
  · obtain ⟨t, ht⟩ := exec_completes_of_endless i (s := u) (by rw [(fetch_instr hf).1.endless_isSome, hs])
    simp [ht] at he

theorem step_endless {s t : State} (hs : s.input.endless.isSome = true) (h : step s = .next t) :
    t.input.endless.isSome = true := by
  rw [inputTail_endless (step_inputTail h), hs]

/-! ## Runs -/

section
variable {M : Host.Core} {s : M.State} (k : Nat)

theorem run_succ_of_next {t : M.State} (h : M.step s = .next t) : M.run (k + 1) s = M.run k t := by
  rw [Host.Core.run, h]

theorem run_succ_of_fault {r : M.Fault} (h : M.step s = .fault r) : M.run (k + 1) s = .fault r := by
  rw [Host.Core.run, h]

theorem run_succ_of_refused {r : M.Refusal} (h : M.step s = .refused r) : M.run (k + 1) s = .refused r := by
  rw [Host.Core.run, h]

end

/-- Settles O60, by induction on the number of steps: a step on an endless input never waits and leaves
the input endless. -/
theorem endlessInputNeverWaits : Obligations.EndlessInputNeverWaits := by
  unfold Obligations.EndlessInputNeverWaits
  intro k
  induction k with
  | zero =>
    intro s hs
    refine ⟨nofun, ?_⟩
    rintro t ⟨⟩
    exact hs
  | succ k ih =>
    intro s hs
    rw [← Option.isSome_iff_ne_none] at hs
    cases h : step s with
    | next t =>
      rw [run_succ_of_next (M := Sys2Proof.core) k h]
      exact ih t (Option.isSome_iff_ne_none.1 (step_endless hs h))
    | fault r =>
      rw [run_succ_of_fault (M := Sys2Proof.core) k h]
      refine ⟨?_, nofun⟩
      rintro ⟨⟩
      exact step_ne_consoleWait_of_endless hs h
    | refused r =>
      rw [run_succ_of_refused (M := Sys2Proof.core) k h]
      exact ⟨nofun, nofun⟩

end Sys2Proof.Machine
end

section
/-! What every step keeps (spec/10_state.md R10 to R22): a relation between states that holds across
bus reads and across what a mnemonic does with its operand holds across every completed instruction
and every step. The register frame, the console's history and the invariant are uses of it. -/

namespace Sys2Proof.Machine

/-- What a mnemonic does with the operand `op` moves along the relation `R`. -/
def Effect.Within (R : State → State → Prop) (op : Operand) : Effect → Prop
  | .target g => ∀ u, R u (g op u)
  | .value g => ∀ v u, R u (g v u)
  | .step _ => ∀ v u, R u (updateZN v (store op v u))
  | .shift _ => ∀ v c u, R u (updateZN v (writeFlag .c c (store op v u)))

section
variable {R : State → State → Prop} {s t : State}

theorem did_within {e : Effect} {op : Operand} (hread : ∀ {s t}, ReadFrame s t → R s t)
    (htrans : ∀ {s t u}, R s t → R t u → R s u) (he : e.Within R op) (hd : e.Did op s t) : R s t := by
  cases e with
  | target g =>
    rw [show t = g op s from hd]
    exact he s
  | value g =>
    obtain ⟨v, w, -, hw, -, rfl⟩ := hd
    exact htrans (hread hw) (he v w)
  | step g =>
    obtain ⟨v, w, -, hw, -, rfl⟩ := hd
    exact htrans (hread hw) (he _ w)
  | shift g =>
    obtain ⟨v, w, -, hw, -, rfl⟩ := hd
    exact htrans (hread hw) (he _ _ w)

theorem exec_within {i : Instr} (hread : ∀ {s t}, ReadFrame s t → R s t)
    (htrans : ∀ {s t u}, R s t → R t u → R s u)
    (he : ∀ op u, resolve i.form s = some (op, u) → (effect i.mnemonic).Within R op)
    (h : exec i s = .next t) : R s t := by
  obtain ⟨op, u, hr, hu, -, hd⟩ := exec_next h
  exact htrans (hread hu) (did_within hread htrans (he op u hr) hd)

theorem step_within (hread : ∀ {s t}, ReadFrame s t → R s t) (htrans : ∀ {s t u}, R s t → R t u → R s u)
    (hhalt : ∀ u, R u (u.setRun .halted)) (he : ∀ m op, (effect m).Within R op) (h : step s = .next t) : R s t := by
  obtain ⟨-, rfl⟩ | ⟨-, i, u, hf, hx⟩ | ⟨-, u, hf, rfl⟩ := step_cases h
  · exact hread (ReadFrame.refl _)
  · exact htrans (hread (fetch_instr hf).1) (exec_within hread htrans (fun op _ _ => he _ op) hx)
  · exact htrans (hread (busRead_frame (fetch_halt hf).1).1) (hhalt u)

end

/-! ## The register frame -/

/-- What a mnemonic does with the operand `op` leaves the field `π` as it was. -/
def Effect.Keeps {α : Type} (π : State → α) (op : Operand) (e : Effect) : Prop :=
  e.Within (fun s t => π t = π s) op

theorem exec_keeps {α : Type} {π : State → α} {i : Instr} {s t : State} (hread : ∀ {s t}, ReadFrame s t → π t = π s)
    (he : ∀ op u, resolve i.form s = some (op, u) → (effect i.mnemonic).Keeps π op) (h : exec i s = .next t) :
    π t = π s :=
  exec_within (R := fun s t => π t = π s) hread (fun h g => g.trans h) he h

section
variable {m : Mnemonic} (op : Operand)

theorem effect_keeps_x (hm : m ∉ xWriters) : (effect m).Keeps State.x op := by
  cases m
  case ldx | tax | tsx | inx | dex => exact absurd (by decide) hm
  all_goals simp [effect, Effect.Keeps, Effect.Within]

theorem effect_keeps_y (hm : m ∉ yWriters) : (effect m).Keeps State.y op := by
  cases m
  case ldy | tay | iny | dey => exact absurd (by decide) hm
  all_goals simp [effect, Effect.Keeps, Effect.Within]

theorem effect_keeps_s (hm : m ∉ stackPointerWriters) : (effect m).Keeps State.s op := by
  cases m
  case txs | pha | php | pla | plp | jsr | rts | brk | rti => exact absurd (by decide) hm
  all_goals simp [effect, Effect.Keeps, Effect.Within]

theorem effect_keeps_run (m : Mnemonic) : (effect m).Keeps State.run op := by
  cases m <;> simp [effect, Effect.Keeps, Effect.Within]

theorem effect_keeps_par (m : Mnemonic) : (effect m).Keeps State.par op := by
  cases m <;> simp [effect, Effect.Keeps, Effect.Within]

end

/-- A mnemonic that stores to its operand writes `A` only where there is no operand. -/
theorem effect_keeps_a {m : Mnemonic} {op : Operand} (hm : m ∉ accumulatorWriters)
    (hop : m ∈ operandStores → op ≠ .none) : (effect m).Keeps State.a op := by
  cases m
  case lda | pla | txa | tya | adc | sbc | and | ora | eor => exact absurd (by decide) hm
  case sta | stx | sty => exact fun u => store_a op _ u (hop (by decide))
  case inc | dec => exact fun v u => store_a op v u (hop (by decide))
  case asl | lsr | rol | ror => exact fun v _ u => store_a op v u (hop (by decide))
  all_goals simp [effect, Effect.Keeps, Effect.Within]

/-- No instruction that stores to its operand is an implied one. -/
theorem form_ne_implied_of_operandStores {i : Instr} (h : i.mnemonic ∈ operandStores) : i.form ≠ .implied := by
  cases i <;> simp_all [Instr.mnemonic, Instr.form, operandStores]

theorem resolve_ne_noOperand {f : Form} {s u : State} {op : Operand} (h : resolve f s = some (op, u))
    (himp : f ≠ .implied) (hacc : f ≠ .accumulator) : op ≠ .none := by
  rintro rfl
  cases f
  case implied => exact himp rfl
  case accumulator => exact hacc rfl
  case indirect p =>
    simp only [resolve] at h
    split at h <;> simp at h
  all_goals simp [resolve, read16Bug_zext16] at h

section
variable {i : Instr} {s t : State}

theorem exec_a (hm : i.mnemonic ∉ accumulatorWriters) (hf : i.form ≠ .accumulator) (h : exec i s = .next t) : t.a = s.a := by
  refine exec_keeps ReadFrame.a (fun op u hr => ?_) h
  exact effect_keeps_a hm fun hs => resolve_ne_noOperand hr (form_ne_implied_of_operandStores hs) hf

theorem exec_x (hm : i.mnemonic ∉ xWriters) (h : exec i s = .next t) : t.x = s.x :=
  exec_keeps ReadFrame.x (fun op _ _ => effect_keeps_x op hm) h

theorem exec_y (hm : i.mnemonic ∉ yWriters) (h : exec i s = .next t) : t.y = s.y :=
  exec_keeps ReadFrame.y (fun op _ _ => effect_keeps_y op hm) h

theorem exec_s (hm : i.mnemonic ∉ stackPointerWriters) (h : exec i s = .next t) : t.s = s.s :=
  exec_keeps ReadFrame.s (fun op _ _ => effect_keeps_s op hm) h

theorem exec_run (h : exec i s = .next t) : t.run = s.run :=
  exec_keeps ReadFrame.run (fun op _ _ => effect_keeps_run op _) h

theorem exec_par (h : exec i s = .next t) : t.par = s.par :=
  exec_keeps ReadFrame.par (fun op _ _ => effect_keeps_par op _) h

end

/-- Settles O50, one field at a time. -/
theorem registersAreWrittenOnlyByTheirWriters : Obligations.RegistersAreWrittenOnlyByTheirWriters := by
  unfold Obligations.RegistersAreWrittenOnlyByTheirWriters
  intro i s t h
  exact ⟨fun hm hf => exec_a hm hf h, fun hm => exec_x hm h, fun hm => exec_y hm h, fun hm => exec_s hm h,
    exec_run h, exec_par h⟩

/-! ## The console's history -/

theorem effect_within_output (m : Mnemonic) (op : Operand) : (effect m).Within (fun s t => s.output <+: t.output) op := by
  cases m <;> simp [effect, Effect.Within, store_output]

theorem step_par {s t : State} (h : step s = .next t) : t.par = s.par :=
  step_within (R := fun s t => t.par = s.par) ReadFrame.par (fun h g => g.trans h) (fun _ => rfl)
    (fun m op => effect_keeps_par op m) h

theorem step_output {s t : State} (h : step s = .next t) : s.output <+: t.output :=
  step_within (R := fun s t => s.output <+: t.output) (fun hr => by rw [hr.output]) List.IsPrefix.trans
    (fun u => by rw [State.setRun_output]) effect_within_output h

/-- Settles O57: no step writes the parameters, a bus write appends, a bus read takes from the front. -/
theorem stepOnlyExtendsTheConsoleHistory : Obligations.StepOnlyExtendsTheConsoleHistory := by
  unfold Obligations.StepOnlyExtendsTheConsoleHistory
  exact fun s t h => ⟨step_par h, step_output h, step_inputTail h⟩

/-! ## The invariant -/

/-- Only PLP and RTI write `P.B`, and they clear it (10_state.md R14). -/
theorem effect_within_flagB (m : Mnemonic) (op : Operand) :
    (effect m).Within (fun s t => getFlag .b s.p = false → getFlag .b t.p = false) op := by
  cases m
  case plp | rti => exact fun u _ => getFlag_pulledStatus .b _
  all_goals
    simp [effect, Effect.Within, addResult, getFlag_setFlag, getFlag_setZN, getFlag_cmp8, getFlag_bitFlags]

/-- RAM is written by the stores and the pushes alone, through the bus. -/
theorem effect_within_ramWf (m : Mnemonic) (op : Operand) :
    (effect m).Within (fun s t => Memory.wf Config.ramSize s.ram = true → Memory.wf Config.ramSize t.ram = true) op := by
  cases m
  case sta | stx | sty => exact fun u => store_wf op _ u
  case inc | dec => exact fun v u => store_wf op v u
  case asl | lsr | rol | ror => exact fun v _ u => store_wf op v u
  case pha | php => exact fun u => push8_wf _ u
  case jsr =>
    intro u hu
    rw [jumpTo_ram]
    exact push16_wf _ u hu
  case brk => exact fun u hu => push8_wf _ _ (push16_wf _ u hu)
  all_goals simp [effect, Effect.Within]

theorem step_flagB {s t : State} (h : step s = .next t) : getFlag .b s.p = false → getFlag .b t.p = false :=
  step_within (R := fun s t => getFlag .b s.p = false → getFlag .b t.p = false) (fun hr hb => by rwa [hr.p])
    (fun h g hb => g (h hb)) (fun _ hb => hb) effect_within_flagB h

theorem step_ramWf {s t : State} (h : step s = .next t) :
    Memory.wf Config.ramSize s.ram = true → Memory.wf Config.ramSize t.ram = true :=
  step_within (R := fun s t => Memory.wf Config.ramSize s.ram = true → Memory.wf Config.ramSize t.ram = true)
    (fun hr hw => by rwa [hr.ram]) (fun h g hw => g (h hw)) (fun _ hw => hw) effect_within_ramWf h

/-- Settles O56: each part of the invariant is kept on its own, ROM and `INPUT` as parameters. -/
theorem stepKeepsTheInvariant : Obligations.StepKeepsTheInvariant := by
  unfold Obligations.StepKeepsTheInvariant
  rintro s t ⟨hram, hrom, hb, hin⟩ h
  refine ⟨step_ramWf h hram, ?_, step_flagB h hb, ?_⟩
  · rwa [step_par h]
  · rw [step_par h]
    exact inputTail_trans (step_inputTail h) hin

/-! ## Reset and the flag primitives -/

/-- Settles O55: RAM and `P` are zero, ROM is the parameter's and `IN` is the whole `INPUT`. -/
theorem resetEstablishesTheInvariant : Obligations.ResetEstablishesTheInvariant := by
  unfold Obligations.ResetEstablishesTheInvariant
  intro par hrom
  have hb : getFlag .b 0 = false := by decide
  exact ⟨rfl, hrom, hb, inputTail_refl _⟩

/-- Settles O1: the reset vector lies in program storage, so both ways to read it give the same word. -/
theorem resetLeavesTheStatedValues : Obligations.ResetLeavesTheStatedValues := by
  unfold Obligations.ResetLeavesTheStatedValues
  intro par
  have hvec : read16 0xFFFC#16 (State.ofParams par) = some ((State.ofParams par).pc, State.ofParams par) :=
    readPair_peek (lo := 0xFFFC#16) (hi := 0xFFFC#16 + 1) rfl rfl
  exact ⟨rfl, rfl, rfl, rfl, rfl, rfl, fun _ => rfl, rfl, rfl, rfl, rfl, hvec⟩

theorem getFlag_eq_shiftRight_and_one (f : Flag) (p : Byte) : getFlag f p = ((p >>> f.bit) &&& 1#8 == 1#8) := by
  rw [BitVec.and_one_eq_setWidth_ofBool_getLsbD, BitVec.getLsbD_ushiftRight, Nat.add_zero]
  unfold getFlag
  cases p.getLsbD f.bit <;> rfl

theorem getLsbD_seven_eq_decide (v : Byte) : v.getLsbD 7 = decide (128 ≤ v.toNat) := by
  rw [← BitVec.msb_eq_decide v, BitVec.msb_eq_getLsbD_last]

/-- Settles O7, bit by bit. -/
theorem flagPrimitivesWriteTheirBitsOnly : Obligations.FlagPrimitivesWriteTheirBitsOnly := by
  unfold Obligations.FlagPrimitivesWriteTheirBitsOnly
  intro f g e v p
  refine ⟨getFlag_eq_shiftRight_and_one f p, getFlag_setFlag f g e p, ?_⟩
  rw [getFlag_setZN, getLsbD_seven_eq_decide]
  cases g <;> rfl

/-! ## Completion -/

/-- Only JMP has the indirect mode (30_encoding.md R53). -/
theorem mnemonic_of_indirect {i : Instr} (h : i.form.mode = .indirect) : i.mnemonic = .jmp := by
  cases i <;> simp [Instr.form, Form.mode] at h
  rfl

/-- Settles O30: an instruction reads the console at most once. JMP indirect may do so in its resolver and
then reads no operand; every other resolver leaves the input to the one operand read. -/
theorem everyInstructionCompletesWithInput : Obligations.EveryInstructionCompletesWithInput := by
  unfold Obligations.EveryInstructionCompletesWithInput
  intro i s hs
  rw [exec_eq_effect]
  by_cases hf : i.form.mode = .indirect
  · rw [mnemonic_of_indirect hf]
    obtain ⟨⟨op, u⟩, hu⟩ := Option.ne_none_iff_exists'.1 (resolve_ne_none (f := i.form) hs)
    exact ⟨jumpTo op u, withTarget_next.2 ⟨op, u, hu, rfl⟩⟩
  · refine (effect i.mnemonic).run_completes hs fun op u hu => ?_
    rwa [resolve_input hu hf]

end Sys2Proof.Machine
end

section
/-! Which bits of `P` the core reads (spec/10_state.md R14, R24): every operation commutes with putting
another value into `P`, except that the tests, the adder, the rotates and the pushes of `P` see it. Two
states that agree outside a mask of unread bits therefore stay so through every instruction and step. -/

namespace Sys2Proof.Machine

/-! ## Operations under another `P`

The `P` of a result is pushed outwards, so that a state under another `P` has the normal form `s.setP p`. -/

@[simp] theorem State.setP_self (s : State) : s.setP s.p = s := rfl
@[simp] theorem State.setP_setP (p q : Byte) (s : State) : (s.setP p).setP q = s.setP q := rfl
@[simp] theorem State.setA_setP (p v : Byte) (s : State) : (s.setP p).setA v = (s.setA v).setP p := rfl
@[simp] theorem State.setX_setP (p v : Byte) (s : State) : (s.setP p).setX v = (s.setX v).setP p := rfl
@[simp] theorem State.setY_setP (p v : Byte) (s : State) : (s.setP p).setY v = (s.setY v).setP p := rfl
@[simp] theorem State.setS_setP (p v : Byte) (s : State) : (s.setP p).setS v = (s.setS v).setP p := rfl
@[simp] theorem State.setPc_setP (p : Byte) (w : Addr) (s : State) : (s.setP p).setPc w = (s.setPc w).setP p := rfl
@[simp] theorem State.setRun_setP (p : Byte) (r : RunState) (s : State) : (s.setP p).setRun r = (s.setRun r).setP p := rfl
@[simp] theorem advance_setP (p : Byte) (n : Nat) (s : State) : advance n (s.setP p) = (advance n s).setP p := rfl
@[simp] theorem writeFlag_setP (p : Byte) (f : Flag) (e : Bool) (s : State) :
    writeFlag f e (s.setP p) = s.setP (setFlag f e p) := rfl
@[simp] theorem updateZN_setP (p v : Byte) (s : State) : updateZN v (s.setP p) = s.setP (setZN v p) := rfl
theorem addResult_setP (p : Byte) (r : AluOut) (s : State) :
    addResult r (s.setP p) = (s.setA r.result).setP (setZN r.result (setFlag .v r.ovf (setFlag .c r.carry p))) := rfl

section
variable (p v : Byte) (s : State)

@[simp] theorem busWrite_setP (a : Addr) : busWrite a v (s.setP p) = (busWrite a v s).setP p := by
  unfold busWrite
  cases regionOf a <;> rfl

@[simp] theorem store_setP (op : Operand) : store op v (s.setP p) = (store op v s).setP p := by
  cases op <;> simp [store]

@[simp] theorem push8_setP : push8 v (s.setP p) = (push8 v s).setP p := by
  simp [push8]

@[simp] theorem push16_setP (w : Addr) : push16 w (s.setP p) = (push16 w s).setP p := by
  simp [push16]

@[simp] theorem jumpTo_setP (op : Operand) : jumpTo op (s.setP p) = (jumpTo op s).setP p := by
  cases op <;> rfl

@[simp] theorem branchTo_setP (cond : Byte → Bool) (op : Operand) :
    branchTo cond op (s.setP p) = (branchTo (fun _ => cond p) op s).setP p := by
  cases op
  case disp d => cases h : cond p <;> simp [branchTo, h]
  all_goals rfl

/-! Bus reads, the resolver and the fetch find the same under another `P`. -/

theorem busRead_setP (a : Addr) : busRead a (s.setP p) = (busRead a s).map (Prod.map id (State.setP p)) := by
  unfold busRead ioRead
  cases regionOf a
  case io =>
    simp only [State.setP_input]
    cases nextInput s.input <;> rfl
  all_goals rfl

theorem readPair_setP (lo hi : Addr) : readPair lo hi (s.setP p) = (readPair lo hi s).map (Prod.map id (State.setP p)) := by
  unfold readPair
  rw [busRead_setP]
  cases busRead lo s with
  | none => rfl
  | some r =>
    simp only [Option.map_some, Prod.map, busRead_setP]
    cases busRead hi r.2 <;> rfl

theorem resolve_setP (f : Form) : resolve f (s.setP p) = (resolve f s).map (Prod.map id (State.setP p)) := by
  cases f
  case indirect a =>
    simp only [resolve, advance_setP, read16Bug, readPair_setP]
    cases readPair a (bugHighAddr a) (advance 3 s) <;> rfl
  case indirectX | indirectY => simp [resolve, read16Bug_zext16]
  all_goals rfl

theorem load_setP (op : Operand) : load op (s.setP p) = (load op s).map (Prod.map id (State.setP p)) := by
  cases op
  case addr a => exact busRead_setP p s a
  all_goals rfl

theorem readBytes_setP (n : Nat) (a : Addr) : readBytes n a (s.setP p) = (readBytes n a s).map (Prod.map id (State.setP p)) := by
  induction n generalizing a s with
  | zero => rfl
  | succ n ih =>
    simp only [readBytes, busRead_setP]
    cases busRead a s with
    | none => rfl
    | some r =>
      simp only [Option.map_some, Prod.map, ih]
      cases readBytes n (a + 1) r.2 <;> rfl

end

/-- What the fetch finds, with `P` replaced in the state it carries. -/
def Fetched.setP (p : Byte) : Fetched → Fetched
  | .instr i s => .instr i (s.setP p)
  | .halt s => .halt (s.setP p)
  | .undefinedOpcode opc s => .undefinedOpcode opc (s.setP p)
  | .wait => .wait

theorem fetch_setP (p : Byte) (s : State) : fetch (s.setP p) = (fetch s).setP p := by
  unfold fetch
  rw [State.setP_pc, busRead_setP]
  cases busRead s.pc s with
  | none => rfl
  | some r =>
    obtain ⟨opc, t⟩ := r
    simp only [Option.map_some, Prod.map, id]
    by_cases hh : (t.par.haltOnNop && opc == Config.haltOpcode) = true
    · simp only [State.setP_par, hh, reduceIte]
      rfl
    · simp only [State.setP_par, hh, Bool.false_eq_true, reduceIte]
      cases opcodeLength opc with
      | none => rfl
      | some n =>
        simp only [readBytes_setP]
        cases readBytes (n - 1) (s.pc + 1) t with
        | none => rfl
        | some r =>
          simp only [Option.map_some, Prod.map, id]
          cases decode (opc :: r.1) <;> rfl

/-! ## Agreement outside a mask -/

/-- Two bytes that agree in every bit outside `mask`. -/
def bitsAgree (mask p q : Byte) : Prop := p &&& ~~~mask = q &&& ~~~mask

theorem getFlag_and_not (f : Flag) (p mask : Byte) : getFlag f (p &&& ~~~mask) = (getFlag f p && !getFlag f mask) := by
  cases f <;> simp [getFlag, Flag.bit]

section
variable {mask p q : Byte}

theorem bitsAgree_iff : bitsAgree mask p q ↔ ∀ f, getFlag f mask = false → getFlag f p = getFlag f q := by
  constructor
  · intro h f hf
    simpa [getFlag_and_not, hf] using congrArg (getFlag f) h
  · intro h
    refine flags_ext fun f => ?_
    rw [getFlag_and_not, getFlag_and_not]
    cases hf : getFlag f mask
    · rw [h f hf]
    · simp

theorem agreeUpTo_setP {s : State} : State.agreeUpTo mask (s.setP p) (s.setP q) ↔ bitsAgree mask p q := by
  simp [State.agreeUpTo, bitsAgree]

theorem bitsAgree_refl : bitsAgree mask p p := rfl

theorem bitsAgree.setFlag (h : bitsAgree mask p q) (f : Flag) (e : Bool) :
    bitsAgree mask (setFlag f e p) (setFlag f e q) := by
  rw [bitsAgree_iff] at h ⊢
  intro g hg
  rw [getFlag_setFlag, getFlag_setFlag, h g hg]

theorem bitsAgree.setZN (h : bitsAgree mask p q) (v : Byte) :
    bitsAgree mask (setZN v p) (setZN v q) := (h.setFlag _ _).setFlag _ _

theorem bitsAgree.cmp8 (h : bitsAgree mask p q) (r m : Byte) :
    bitsAgree mask (cmp8 r m p) (cmp8 r m q) := ((h.setFlag _ _).setFlag _ _).setFlag _ _

theorem bitsAgree.bitFlags (h : bitsAgree mask p q) (a m : Byte) :
    bitsAgree mask (bitFlags a m p) (bitFlags a m q) := ((h.setFlag _ _).setFlag _ _).setFlag _ _

/-- The flags read by the branches, C also by the adder and the rotates. Only a push of `P` reads another
(10_state.md R24). -/
def testedFlags : List Flag := [.c, .z, .v, .n]

/-- What a mnemonic does with its operand gives agreeing states when `P` is `p` and when it is `q`. -/
def Effect.Blind (mask p q : Byte) : Effect → Prop
  | .target g => ∀ op (u : State), State.agreeUpTo mask (g op (u.setP p)) (g op (u.setP q))
  | .value g => ∀ v (u : State), State.agreeUpTo mask (g v (u.setP p)) (g v (u.setP q))
  | .step _ => bitsAgree mask p q
  | .shift _ => bitsAgree mask p q ∧ getFlag .c p = getFlag .c q

theorem effect_blind (h : bitsAgree mask p q) (hread : ∀ f ∈ testedFlags, getFlag f p = getFlag f q)
    {m : Mnemonic} (hpush : m = .php ∨ m = .brk → pushedStatus p = pushedStatus q) : (effect m).Blind mask p q := by
  have hc := hread .c (by decide)
  have hz := hread .z (by decide)
  have hv := hread .v (by decide)
  have hn := hread .n (by decide)
  cases m
  case adc | sbc =>
    intro v u
    simp only [addResult_setP, agreeUpTo_setP, State.setP_a, State.setP_p, hc]
    exact ((h.setFlag _ _).setFlag _ _).setZN _
  case php | brk =>
    intro op u
    simp [hpush, agreeUpTo_setP, h, h.setFlag]
  all_goals
    simp [effect, Effect.Blind, agreeUpTo_setP, bitsAgree_refl, h, hc, hz, hv, hn, h.setFlag, h.setZN, h.cmp8, h.bitFlags]

theorem withOperand_agrees {f : Form} {g : Operand → State → Option State}
    (h : ∀ op (u : State), agreeingResults mask (finish (g op (u.setP p))) (finish (g op (u.setP q)))) (s : State) :
    agreeingResults mask (withOperand f g (s.setP p)) (withOperand f g (s.setP q)) := by
  unfold withOperand
  rw [resolve_setP, resolve_setP]
  cases resolve f s with
  | none => trivial
  | some r => exact h r.1 r.2

/-- The same for an instruction that reads its operand once: `k` is what it then does. -/
theorem withOperand_load_agrees {f : Form} {g : Operand → State → Option State}
    (k : Operand → Byte → State → State) (hg : ∀ op t, g op t = (load op t).map fun r => k op r.1 r.2)
    (h : ∀ op v (u : State), State.agreeUpTo mask (k op v (u.setP p)) (k op v (u.setP q))) (s : State) :
    agreeingResults mask (withOperand f g (s.setP p)) (withOperand f g (s.setP q)) := by
  refine withOperand_agrees (fun op u => ?_) s
  rw [hg, hg, load_setP, load_setP]
  cases load op u with
  | none => trivial
  | some r => exact h op r.1 r.2

/-- What a shift does with the byte `v` read from its operand. -/
def shiftBack (g : Byte → Bool → ShiftOut) (op : Operand) (v : Byte) (s : State) : State :=
  updateZN (g v (getFlag .c s.p)).result
    (writeFlag .c (g v (getFlag .c s.p)).cout (store op (g v (getFlag .c s.p)).result s))

theorem shiftBack_agrees (h : bitsAgree mask p q) (hc : getFlag .c p = getFlag .c q) (g : Byte → Bool → ShiftOut)
    (op : Operand) (v : Byte) (s : State) :
    State.agreeUpTo mask (shiftBack g op v (s.setP p)) (shiftBack g op v (s.setP q)) := by
  simpa [shiftBack, agreeUpTo_setP, hc] using (h.setFlag _ _).setZN _

theorem run_agrees {e : Effect} (he : e.Blind mask p q) (f : Form) (s : State) :
    agreeingResults mask (e.run f (s.setP p)) (e.run f (s.setP q)) := by
  cases e with
  | target g => exact withOperand_agrees (g := fun op t => some (g op t)) he s
  | value g =>
    refine withOperand_load_agrees (fun _ => g) (fun op t => ?_) (fun _ => he) s
    cases load op t <;> rfl
  | step g =>
    refine withOperand_load_agrees (fun op v u => updateZN (g v) (store op (g v) u)) (fun op t => ?_) (fun op v u => ?_) s
    · cases load op t <;> rfl
    · simpa [agreeUpTo_setP] using bitsAgree.setZN he _
  | shift g =>
    refine withOperand_load_agrees (shiftBack g) (fun op t => ?_) (shiftBack_agrees he.1 he.2 g) s
    cases load op t <;> rfl

/-! ## Instructions and steps -/

theorem exec_agrees {i : Instr} (h : bitsAgree mask p q)
    (hmask : ∀ f ∈ testedFlags, getFlag f mask = false)
    (hpush : i.mnemonic = .php ∨ i.mnemonic = .brk → pushedStatus p = pushedStatus q) (s : State) :
    agreeingResults mask (exec i (s.setP p)) (exec i (s.setP q)) := by
  rw [exec_eq_effect, exec_eq_effect]
  exact run_agrees (effect_blind h (fun f hf => bitsAgree_iff.1 h f (hmask f hf)) hpush) _ s

theorem step_agrees (h : bitsAgree mask p q) (hmask : ∀ f ∈ testedFlags, getFlag f mask = false)
    (hpush : pushedStatus p = pushedStatus q) (s : State) :
    agreeingResults mask (step (s.setP p)) (step (s.setP q)) := by
  unfold step
  rw [fetch_setP, fetch_setP, State.setP_run, State.setP_run]
  cases s.run with
  | halted => exact agreeUpTo_setP.2 h
  | faulted => exact agreeUpTo_setP.2 h
  | running =>
    cases fetch s with
    | instr i u => exact exec_agrees h hmask (fun _ => hpush) u
    | halt u => exact agreeUpTo_setP (s := u.setRun .halted).2 h
    | undefinedOpcode opc u => exact ⟨rfl, rfl, agreeUpTo_setP (s := u.setRun .faulted).2 h⟩
    | wait => trivial

end

/-- The pushed copy of `P` has bits 4 and 5 set whatever they were (10_state.md R14). -/
theorem pushedStatus_eq_of_bitsAgree {p q : Byte} (h : bitsAgree 0x30#8 p q) : pushedStatus p = pushedStatus q := by
  refine flags_ext fun f => ?_
  rw [getFlag_pushedStatus, getFlag_pushedStatus]
  split
  · rfl
  · rename_i hf
    refine bitsAgree_iff.1 h f ?_
    cases f <;> simp at hf <;> rfl

/-- Settles O58: bits 4 and 5 are no tested flag, and the pushes of `P` overwrite them. -/
theorem breakAndUnusedBitsAreUnobservable : Obligations.BreakAndUnusedBitsAreUnobservable := by
  unfold Obligations.BreakAndUnusedBitsAreUnobservable
  intro s q h
  exact step_agrees (mask := 0x30#8) (p := s.p) h (by decide) (pushedStatus_eq_of_bitsAgree h) s

theorem mnemonic_ne_php {i : Instr} (h : i ≠ .php) : i.mnemonic ≠ .php := by
  cases i <;> simp_all [Instr.mnemonic]

theorem mnemonic_ne_brk {i : Instr} (h : i ≠ .brk) : i.mnemonic ≠ .brk := by
  cases i <;> simp_all [Instr.mnemonic]

/-- Settles O59: bits 2 to 5 are no tested flag, and only PHP and BRK push `P`. -/
theorem interruptAndDecimalAreReadOnlyByPushes : Obligations.InterruptAndDecimalAreReadOnlyByPushes := by
  unfold Obligations.InterruptAndDecimalAreReadOnlyByPushes
  intro i s q hphp hbrk h
  have hpush : ¬(i.mnemonic = .php ∨ i.mnemonic = .brk) := not_or.2 ⟨mnemonic_ne_php hphp, mnemonic_ne_brk hbrk⟩
  exact exec_agrees (mask := 0x3C#8) (p := s.p) h (by decide) (fun hm => absurd hm hpush) s

end Sys2Proof.Machine
end

section
/-! The bus by region, the loaded image and the 16-bit reads (spec/20_memory.md R31 to R37, R47). -/

namespace Sys2Proof.Machine

/-! ## One byte, by region -/

theorem eq_ioAddr_of_toNat {a : Addr} (h : a.toNat = 0x2000) : a = 0x2000#16 := BitVec.eq_of_toNat_eq h

section
variable {a : Addr}

theorem busRead_ram (h : a.toNat < 0x2000) (s : State) : busRead a s = some (Memory.read s.ram a.toNat, s) := by
  rw [busRead, regionOf_ram.2 h]

theorem busRead_rom (h : 0x2000 < a.toNat) (s : State) : busRead a s = some (Memory.read s.par.rom (romIndex a), s) := by
  rw [busRead, regionOf_rom.2 h]

theorem busRead_io {s : State} {b : Byte} {rest : InputSeq} (h : nextInput s.input = some (b, rest)) :
    busRead 0x2000#16 s = some (b, s.setInput rest) := by
  rw [busRead, regionOf_io.2 rfl, ioRead, h]

theorem busWrite_ram (h : a.toNat < 0x2000) (v : Byte) (s : State) :
    busWrite a v s = s.setRam (Memory.write s.ram a.toNat v) := by
  rw [busWrite, regionOf_ram.2 h]

theorem busWrite_io (v : Byte) (s : State) : busWrite 0x2000#16 v s = s.setOutput (s.output ++ [v]) := rfl

theorem busWrite_rom (h : 0x2000 < a.toNat) (v : Byte) (s : State) : busWrite a v s = s := by
  rw [busWrite, regionOf_rom.2 h]

end

/-- Settles O3, region by region; at the console by what is next in the input. -/
theorem busReadFollowsTheAddressMap : Obligations.BusReadFollowsTheAddressMap := by
  unfold Obligations.BusReadFollowsTheAddressMap
  intro a s
  refine ⟨fun h => busRead_ram h s, fun h => ?_, fun h => busRead_rom h s⟩
  obtain rfl := eq_ioAddr_of_toNat h
  refine ⟨fun hin => busRead_none.2 ⟨rfl, hin⟩, fun b rest e hin => ?_, fun j n hin => ?_⟩
  · exact busRead_io (by rw [hin, nextInput_cons])
  · exact busRead_io (by rw [hin, nextInput_endless])

/-- What a canonical memory holds under each key after a write. -/
theorem Memory.read_write {size : Nat} {m : Memory} (h : Memory.wf size m = true) (k j : Nat) (v : Byte) :
    Memory.read (Memory.write m k v) j = if j = k then v else Memory.read m j := by
  split
  · rename_i hjk
    rw [hjk, Memory.read_write_same m h]
  · rename_i hjk
    exact Memory.read_write_ne m hjk v

/-- Settles O4, region by region. -/
theorem busWriteFollowsTheAddressMap : Obligations.BusWriteFollowsTheAddressMap := by
  unfold Obligations.BusWriteFollowsTheAddressMap
  intro a v s hs
  refine ⟨fun h => ⟨_, busWrite_ram h v s, fun k => Memory.read_write hs _ k v⟩, fun h => ?_, fun h => busWrite_rom h v s⟩
  rw [eq_ioAddr_of_toNat h]
  exact busWrite_io v s

/-! ## The program image -/

/-- Program storage is seen from `0x8000` on (20_memory.md R31). -/
theorem peek_programStorage (s : State) {i : Nat} (hi : i < 0x8000) :
    peek s (0x8000#16 + BitVec.ofNat 16 i) = some (Memory.read s.par.rom i) := by
  have ha : (0x8000#16 + BitVec.ofNat 16 i).toNat = 0x8000 + i := by
    simp only [BitVec.toNat_add, BitVec.toNat_ofNat]
    omega
  have hrom : regionOf (0x8000#16 + BitVec.ofNat 16 i) = .rom := regionOf_rom.2 (by omega)
  have hidx : romIndex (0x8000#16 + BitVec.ofNat 16 i) = i := by
    rw [romIndex, ha, Config.romSize]
    omega
  rw [peek, hrom]
  simp only [hidx]

theorem loadImage_of_le {bytes : List Byte} (h : bytes.length ≤ 0x8000) :
    loadImage bytes = some (Memory.ofBytes 0 bytes) := if_pos h

theorem loadImage_of_lt {bytes : List Byte} (h : 0x8000 < bytes.length) : loadImage bytes = none :=
  if_neg (Nat.not_le.2 h)

/-- Settles O5: the image read back byte by byte, and the place of program storage in the address space. -/
theorem imageIsPaddedOrRefused : Obligations.ImageIsPaddedOrRefused := by
  unfold Obligations.ImageIsPaddedOrRefused
  intro bytes
  have hread : ∀ i, Memory.read (Memory.ofBytes 0 bytes) i = bytes.getD i 0x00#8 := fun i => by
    simpa [Memory.unlisted] using Memory.read_ofBytes bytes 0 i
  refine ⟨fun h => ⟨_, loadImage_of_le h, hread, fun inp hn i hi => ?_⟩, loadImage_of_lt⟩
  rw [peek_programStorage _ hi, ← hread i]
  rfl

/-! ## Two bytes -/

theorem readPair_of_reads {lo hi : Addr} {s t u : State} {l h : Byte} (h1 : busRead lo s = some (l, t))
    (h2 : busRead hi t = some (h, u)) : readPair lo hi s = some (word16 h l, u) := by
  simp [readPair, h1, h2]

theorem word16_toNat (hi lo : Byte) : (word16 hi lo).toNat = hi.toNat * 256 + lo.toNat := by
  rw [word16, BitVec.toNat_append, ← Nat.shiftLeft_add_eq_or_of_lt lo.isLt, Nat.shiftLeft_eq]

/-- Where the low byte does not wrap, the page-wrapped address is the next one (20_memory.md R36). -/
theorem bugHighAddr_eq_add_one {a : Addr} (h : loByte a ≠ 0xFF#8) : bugHighAddr a = a + 1 := by
  have hlo : (loByte a).toNat ≠ 0xFF := fun e => h (BitVec.eq_of_toNat_eq e)
  have ha : a.toNat = (hiByte a).toNat * 256 + (loByte a).toNat := by rw [← word16_toNat, word16_bytes]
  apply BitVec.eq_of_toNat_eq
  rw [bugHighAddr_eq, word16_toNat]
  bv_omega

/-- Settles O6: both reads are a pair of byte reads, and the page-wrapped high byte's address has the
high half of `a` and the low half of `a + 1`. -/
theorem sixteenBitReadsAndThePageWrap : Obligations.SixteenBitReadsAndThePageWrap := by
  unfold Obligations.SixteenBitReadsAndThePageWrap
  refine ⟨fun a s t u lo hi hlo => ⟨fun hhi => ?_, fun hhi => ?_⟩, word16_toNat, fun a => ?_, fun a s h => ?_⟩
  · have hnext : BitVec.ofNat 16 ((a.toNat + 1) % 65536) = a + 1 := by bv_omega
    exact readPair_of_reads hlo (hnext ▸ hhi)
  · exact readPair_of_reads hlo hhi
  · rw [← bugHighAddr, bugHighAddr_eq, hiByte_word16]
  · rw [read16Bug, bugHighAddr_eq_add_one h, read16]

end Sys2Proof.Machine
end

section
/-! Reads of the console without input (spec/20_memory.md R34, R43): which bus read finds none, and that
the instruction or the fetch that contains it waits. -/

namespace Sys2Proof.Machine

/-! ## Bus reads -/

/-- Without input a bus read that completes changes nothing. -/
theorem busRead_eq_of_empty {a : Addr} {s t : State} {b : Byte} (hin : s.input = .empty)
    (h : busRead a s = some (b, t)) : t = s := by
  obtain rfl | ⟨-, hn⟩ := busRead_input h
  · rfl
  · rw [hin, nextInput_empty] at hn
    cases hn

theorem readPair_none_of_empty {lo hi : Addr} {s : State} (hin : s.input = .empty)
    (h : lo = 0x2000#16 ∨ hi = 0x2000#16) : readPair lo hi s = none := by
  rw [Option.eq_none_iff_forall_not_mem]
  rintro ⟨w, t⟩ hw
  obtain ⟨l, u, g, hlo, hhi, -⟩ := readPair_cases hw
  obtain rfl := busRead_eq_of_empty hin hlo
  obtain rfl | rfl := h
  · simp [busRead_none.2 ⟨rfl, hin⟩] at hlo
  · simp [busRead_none.2 ⟨rfl, hin⟩] at hhi

theorem readBytes_none_of_empty {k j : Nat} {a : Addr} {s : State} (hin : s.input = .empty) (hj : j < k)
    (ha : a + BitVec.ofNat 16 j = 0x2000#16) : readBytes k a s = none := by
  induction k generalizing a j with
  | zero => omega
  | succ k ih =>
    rw [readBytes]
    cases hb : busRead a s with
    | none => rfl
    | some r =>
      obtain ⟨b, t⟩ := r
      obtain rfl := busRead_eq_of_empty hin hb
      cases j with
      | zero =>
        have hio : a = 0x2000#16 := by simpa using ha
        simp [busRead_none.2 ⟨hio, hin⟩] at hb
      | succ j =>
        have hnext : a + 1 + BitVec.ofNat 16 j = 0x2000#16 := by rw [← ha]; bv_omega
        simp only [ih (by omega) hnext]

/-! ## Instructions -/

/-- Whether the operand is read after it is resolved. -/
def Effect.readsOperand : Effect → Bool
  | .target _ => false
  | .value _ => true
  | .step _ => true
  | .shift _ => true

theorem run_waits_of_resolve {e : Effect} {f : Form} {s : State} (h : resolve f s = none) :
    e.run f s = .fault .consoleWait := by
  cases e <;>
    simp only [Effect.run, withTarget, withValue, stepOperand, shiftOperand, withOperand, h]

theorem run_waits_of_load {e : Effect} {f : Form} {s t : State} {op : Operand} (he : e.readsOperand = true)
    (hr : resolve f s = some (op, t)) (hl : load op t = none) : e.run f s = .fault .consoleWait := by
  cases e with
  | target g => cases he
  | value g => simp only [Effect.run, withValue, withOperand, hr, hl, finish]
  | step g => simp only [Effect.run, stepOperand, withOperand, hr, hl, finish]
  | shift g => simp only [Effect.run, shiftOperand, withOperand, hr, hl, finish]

/-! ## The fetch and the step -/

theorem step_of_fetch_wait {s : State} (hrun : s.run = .running) (h : fetch s = .wait) :
    step s = .fault .consoleWait := by
  rw [step, hrun, h]
  rfl

theorem fetch_wait_of_opcode {s : State} (h : busRead s.pc s = none) : fetch s = .wait := by
  rw [fetch, h]

theorem fetch_wait_of_operand {s t : State} {opc : Byte} {n : Nat} (hb : busRead s.pc s = some (opc, t))
    (hh : ¬(s.par.haltOnNop = true ∧ opc = Config.haltOpcode)) (hn : opcodeLength opc = some n)
    (hr : readBytes (n - 1) (s.pc + 1) t = none) : fetch s = .wait := by
  have hpar : t.par = s.par := (busRead_frame hb).1.par
  have hgo : (t.par.haltOnNop && opc == Config.haltOpcode) = false := by
    rw [hpar, ← Bool.not_eq_true]
    simpa using hh
  simp only [fetch, hb, hgo, hn, hr, Bool.false_eq_true, if_false]

/-- Settles O29: each clause is one read that finds no input, and what it stands in waits. -/
theorem consoleReadWithoutInputWaits : Obligations.ConsoleReadWithoutInputWaits := by
  unfold Obligations.ConsoleReadWithoutInputWaits
  refine ⟨fun i s t hm hr hin => ?operandRead, fun s hrun hpc hin => ?opcodeFetch,
    fun s t opc n hrun hb hh hn hr => ?operandFetch, fun k j a s hj ha hin => readBytes_none_of_empty hin hj ha,
    fun p s hp => ?pointer, fun p s hp hin => readPair_none_of_empty hin hp⟩
  case operandRead =>
    have hreads : (effect i.mnemonic).readsOperand = true := by
      generalize i.mnemonic = m at hm
      revert m
      decide
    rw [exec_eq_effect]
    exact run_waits_of_load hreads hr (busRead_none.2 ⟨rfl, hin⟩)
  case opcodeFetch => exact step_of_fetch_wait hrun (fetch_wait_of_opcode (busRead_none.2 ⟨hpc, hin⟩))
  case operandFetch => exact step_of_fetch_wait hrun (fetch_wait_of_operand hb hh hn hr)
  case pointer =>
    have hwait : read16Bug p (advance 3 s) = none := hp
    rw [exec_eq_effect]
    exact run_waits_of_resolve (by simp only [Instr.form, resolve, hwait])

end Sys2Proof.Machine
end

section
/-! What an instruction leaves in memory (spec/20_memory.md R33, R39): nothing changes where it neither
stores to its operand nor pushes, and a store leaves what one bus write at the resolved address leaves. -/

namespace Sys2Proof.Machine

/-- What a bus write can change, and what `peek` reads: RAM, `OUT`, and ROM with the other parameters. -/
def State.memory (s : State) : Memory × List Byte × Params := (s.ram, s.output, s.par)

theorem ReadFrame.memory {s t : State} (h : ReadFrame s t) : t.memory = s.memory := by
  simp only [State.memory, h.ram, h.output, h.par]

section
variable {s t : State} (h : t.memory = s.memory)
include h

theorem peek_of_memory_eq (b : Addr) : peek t b = peek s b := by
  simp only [State.memory, Prod.mk.injEq] at h
  obtain ⟨hram, -, hpar⟩ := h
  simp only [peek, hram, hpar]

theorem output_of_memory_eq : t.output = s.output := congrArg (fun m => m.2.1) h

theorem busWrite_memory_congr (a : Addr) (v : Byte) : (busWrite a v t).memory = (busWrite a v s).memory := by
  simp only [State.memory, Prod.mk.injEq] at h
  obtain ⟨hram, hout, hpar⟩ := h
  unfold busWrite
  cases regionOf a <;> simp [State.memory, ioWrite, hram, hout, hpar]

end

/-! ## Instructions that store nothing -/

theorem effect_keeps_memory {m : Mnemonic} {op : Operand} (hpush : m ∉ pushMnemonics)
    (hstore : m ∈ operandStores → op = .none) : (effect m).Keeps State.memory op := by
  cases m
  case pha | php | jsr | brk => exact absurd (by decide) hpush
  case sta | stx | sty | inc | dec | asl | lsr | rol | ror =>
    obtain rfl := hstore (by decide)
    simp [effect, Effect.Keeps, Effect.Within, State.memory, store]
  all_goals simp [effect, Effect.Keeps, Effect.Within, State.memory]

/-- The accumulator forms are the shifts', which do not push (30_encoding.md R53). -/
theorem mnemonic_not_push_of_accumulator {i : Instr} (h : i.form = .accumulator) : i.mnemonic ∉ pushMnemonics := by
  cases i <;> simp [Instr.form] at h <;> decide

theorem exec_memory {i : Instr} {s t : State} (h : exec i s = .next t)
    (hi : i.mnemonic ∉ operandStores ++ pushMnemonics ∨ i.form = .accumulator) : t.memory = s.memory := by
  refine exec_keeps ReadFrame.memory (fun op u hr => ?_) h
  obtain hm | hf := hi
  · rw [List.mem_append, not_or] at hm
    exact effect_keeps_memory hm.2 fun hs => absurd hs hm.1
  · refine effect_keeps_memory (mnemonic_not_push_of_accumulator hf) fun _ => ?_
    rw [hf] at hr
    cases hr
    rfl

/-- Settles O52: RAM, ROM and `OUT` are as before. -/
theorem nonStoringInstructionsKeepMemory : Obligations.NonStoringInstructionsKeepMemory := by
  unfold Obligations.NonStoringInstructionsKeepMemory
  intro i s t h hi
  have hmem := exec_memory h hi
  exact ⟨peek_of_memory_eq hmem, output_of_memory_eq hmem⟩

/-! ## Instructions that store to their operand -/

theorem did_memory_of_operandStores {m : Mnemonic} {a : Addr} {u t : State} (hm : m ∈ operandStores)
    (hd : (effect m).Did (.addr a) u t) : ∃ v, t.memory = (busWrite a v u).memory := by
  cases m
  case sta | stx | sty => exact ⟨_, congrArg State.memory hd⟩
  case inc | dec | asl | lsr | rol | ror =>
    obtain ⟨v, w, -, hw, -, rfl⟩ := hd
    exact ⟨_, busWrite_memory_congr hw.memory a _⟩
  all_goals exact absurd hm (by decide)

/-- A storing instruction leaves in memory what one bus write at its resolved address leaves. -/
theorem exec_memory_of_operandStores {i : Instr} {s t u : State} {a : Addr} (hm : i.mnemonic ∈ operandStores)
    (hr : resolve i.form s = some (.addr a, u)) (h : exec i s = .next t) :
    ∃ v, t.memory = (busWrite a v s).memory := by
  obtain ⟨op, u', hr', hu, -, hd⟩ := exec_next h
  cases hr.symm.trans hr'
  obtain ⟨v, hv⟩ := did_memory_of_operandStores hm hd
  exact ⟨v, hv.trans (busWrite_memory_congr hu.memory a v)⟩

/-- At and above the console a bus write changes no byte of memory (20_memory.md R33). -/
theorem peek_busWrite_of_le {a : Addr} (h : 0x2000 ≤ a.toNat) (v : Byte) (s : State) (b : Addr) :
    peek (busWrite a v s) b = peek s b := by
  obtain heq | hlt := h.eq_or_lt
  · rw [eq_ioAddr_of_toNat heq.symm, busWrite_io]
    rfl
  · rw [busWrite_rom hlt]

/-- Only a write at the console is output (20_memory.md R33). -/
theorem busWrite_output_of_ne {a : Addr} (h : a ≠ 0x2000#16) (v : Byte) (s : State) :
    (busWrite a v s).output = s.output := by
  obtain ⟨-, hw⟩ | ⟨ha, -⟩ | ⟨-, hw⟩ := busWrite_cases a v s
  · rw [hw, State.setRam_output]
  · exact absurd ha h
  · rw [hw]

/-- Settles O53: the frame of the one bus write. -/
theorem operandStoresChangeOneAddress : Obligations.OperandStoresChangeOneAddress := by
  unfold Obligations.OperandStoresChangeOneAddress
  intro i s t u a hm hr h
  obtain ⟨v, hv⟩ := exec_memory_of_operandStores hm hr h
  have hpeek := peek_of_memory_eq hv
  rw [output_of_memory_eq hv]
  refine ⟨fun b hb => ?_, fun ha b => ?_, fun ha => busWrite_output_of_ne ha v s, ?_⟩
  · rw [hpeek, peek_busWrite_ne a v s hb]
  · rw [hpeek, peek_busWrite_of_le ha]
  · rintro rfl
    exact ⟨v, rfl⟩

end Sys2Proof.Machine
end

section
/-! The encoding (spec/30_encoding.md R50 to R57). A row of the by-opcode table with an operand is an
instruction, and every instruction is one. What a row says of its instructions is checked once per row;
the two halves of the round trip and the agreement of the two tables follow. -/

namespace Sys2Proof

open Sys2Proof.Machine

/-! ## A slot with an operand, and a mode with an operand -/

/-- The instruction of a slot: `b` where the slot takes a byte, `a` where it takes an address. -/
def Slot.instr : Slot → Byte → Addr → Instr
  | .noOperand i, _, _ => i
  | .byteOperand mk, b, _ => mk b
  | .wordOperand mk, _, a => mk a

/-- The operand bytes of a slot, the low byte of an address first (30_encoding.md R51). -/
def Slot.operandBytes : Slot → Byte → Addr → List Byte
  | .noOperand _, _, _ => []
  | .byteOperand _, b, _ => [b]
  | .wordOperand _, _, a => [loByte a, hiByte a]

/-- The mnemonic of a slot's instructions; in a row of the table no operand changes it (`rowAgrees`). -/
def Slot.mnemonic (slot : Slot) : Mnemonic := (slot.instr 0 0).mnemonic

/-- The addressing mode of a slot's instructions; in a row of the table no operand changes it (`rowAgrees`). -/
def Slot.mode (slot : Slot) : Mode := (slot.instr 0 0).form.mode

/-- The form of a mode: `b` where the mode takes a byte, `a` where it takes an address. -/
def Mode.form : Mode → Byte → Addr → Form
  | .implied, _, _ => .implied
  | .accumulator, _, _ => .accumulator
  | .immediate, b, _ => .immediate b
  | .zeroPage, b, _ => .zeroPage b
  | .zeroPageX, b, _ => .zeroPageX b
  | .zeroPageY, b, _ => .zeroPageY b
  | .relative, b, _ => .relative b
  | .absolute, _, a => .absolute a
  | .absoluteX, _, a => .absoluteX a
  | .absoluteY, _, a => .absoluteY a
  | .indirect, _, a => .indirect a
  | .indirectX, b, _ => .indirectX b
  | .indirectY, b, _ => .indirectY b

/-- The byte a form carries, 0 where it carries none. -/
def Form.byteOperand : Form → Byte
  | .immediate b | .zeroPage b | .zeroPageX b | .zeroPageY b | .relative b | .indirectX b | .indirectY b => b
  | _ => 0

/-- The address a form carries, 0 where it carries none. -/
def Form.addrOperand : Form → Addr
  | .absolute a | .absoluteX a | .absoluteY a | .indirect a => a
  | _ => 0

/-- A form is its mode with its operand. -/
theorem Form.mode_form (f : Form) : f.mode.form f.byteOperand f.addrOperand = f := by
  cases f <;> rfl

/-! ## The rows of the by-opcode table -/

/-- What a row of the table says of each of its instructions: the bytes, the mnemonic and the form. -/
def rowAgrees (row : Byte × Slot) : Prop :=
  ∀ (b : Byte) (a : Addr),
    encode (row.2.instr b a) = row.1 :: row.2.operandBytes b a ∧
    (row.2.instr b a).mnemonic = row.2.mnemonic ∧ (row.2.instr b a).form = row.2.mode.form b a

theorem rowAgrees_of_mem : ∀ row ∈ opcodeTable, rowAgrees row := by
  rw [← List.forall_iff_forall_mem]
  repeat' apply And.intro
  all_goals exact fun _ _ => ⟨rfl, rfl, rfl⟩

/-- Every instruction is its opcode's slot with the operand of its form. -/
theorem exists_slot (i : Instr) :
    ∃ opc slot, slotOf opc = some slot ∧ slot.instr i.form.byteOperand i.form.addrOperand = i := by
  have h : (slotOf ((encode i).headD 0)).map (·.instr i.form.byteOperand i.form.addrOperand) = some i := by
    cases i <;> rfl
  exact ⟨_, Option.map_eq_some_iff.1 h⟩

/-! ## Encoding and decoding a slot with an operand -/

section
variable {opc : Byte} {slot : Slot} (h : slotOf opc = some slot)
include h

theorem encode_slot (b : Byte) (a : Addr) : encode (slot.instr b a) = opc :: slot.operandBytes b a :=
  (rowAgrees_of_mem _ (slotOf_mem h) b a).1

theorem decode_slot (b : Byte) (a : Addr) (rest : List Byte) :
    decode (opc :: slot.operandBytes b a ++ rest) = .instr (slot.instr b a) rest := by
  cases slot with
  | noOperand i => exact decode_noOperand h rest
  | byteOperand mk => exact decode_byteOperand h b rest
  | wordOperand mk => exact decode_wordOperand h a rest

/-- The bytes after an opcode are too few, or they begin with an operand of its slot. -/
theorem decode_slot_cases (operands : List Byte) :
    decode (opc :: operands) = .tooShort ∨ ∃ b a rest, operands = slot.operandBytes b a ++ rest := by
  match slot, operands with
  | .noOperand _, rest => exact .inr ⟨0, 0, rest, rfl⟩
  | .byteOperand _, [] => exact .inl (by simp [decode, h])
  | .byteOperand _, b :: rest => exact .inr ⟨b, 0, rest, rfl⟩
  | .wordOperand _, [] | .wordOperand _, [_] => exact .inl (by simp [decode, h])
  | .wordOperand _, lo :: hi :: rest => exact .inr ⟨0, word16 hi lo, rest, by simp [Slot.operandBytes]⟩

end

/-! ## The round trip -/

theorem decode_encode (i : Instr) (rest : List Byte) : decode (encode i ++ rest) = .instr i rest := by
  obtain ⟨opc, slot, hs, hi⟩ := exists_slot i
  rw [← hi, encode_slot hs, decode_slot hs]

/-- What decodes to an instruction is an opcode and an operand of its slot. -/
theorem decode_eq_instr {bytes rest : List Byte} {i : Instr} (h : decode bytes = .instr i rest) :
    ∃ opc slot b a, slotOf opc = some slot ∧ bytes = opc :: slot.operandBytes b a ++ rest ∧ i = slot.instr b a := by
  cases bytes with
  | nil => cases h
  | cons opc operands =>
    cases hs : slotOf opc with
    | none => cases (decode_undefined hs operands).symm.trans h
    | some slot =>
      obtain hshort | ⟨b, a, more, rfl⟩ := decode_slot_cases hs operands
      · cases hshort.symm.trans h
      · cases (decode_slot hs b a more).symm.trans h
        exact ⟨opc, slot, b, a, hs, rfl, rfl⟩

/-- Settles O17: an instruction is its opcode's slot with its operand. -/
theorem decodeOfEncodeIsTheInstruction : Obligations.DecodeOfEncodeIsTheInstruction := by
  unfold Obligations.DecodeOfEncodeIsTheInstruction
  intro i rest _
  exact decode_encode i rest

/-- Settles O18: what was decoded is a slot with an operand, whose bytes are the encoder's. -/
theorem decodedBytesAreTheEncoding : Obligations.DecodedBytesAreTheEncoding := by
  unfold Obligations.DecodedBytesAreTheEncoding
  intro bytes rest i h
  obtain ⟨opc, slot, b, a, hs, rfl, rfl⟩ := decode_eq_instr h
  rw [encode_slot hs]

/-! ## The two tables -/

theorem wf_instr (i : Instr) : i.wf = true := by
  cases i <;> rfl

/-- A mnemonic has a row of the by-opcode table in each of its modes (30_encoding.md R53). -/
theorem exists_row (m : Mnemonic) : ∀ mode ∈ m.modes, ∃ row ∈ opcodeTable, row.2.mnemonic = m ∧ row.2.mode = mode := by
  have h : (m.modes.all fun mode => opcodeTable.any fun row => row.2.mnemonic == m && row.2.mode == mode) = true := by
    cases m <;> rfl
  simpa using h

/-- Settles O20: the instruction is the row of the mnemonic and the mode, with the operand of the form. -/
theorem mnemonicTableAndInstructionsAgree : Obligations.MnemonicTableAndInstructionsAgree := by
  unfold Obligations.MnemonicTableAndInstructionsAgree
  refine ⟨wf_instr, fun m f h => ?_⟩
  obtain ⟨row, hrow, hm, hmode⟩ := exists_row m f.mode (List.contains_iff_mem.1 h)
  obtain ⟨-, hmnemonic, hform⟩ := rowAgrees_of_mem row hrow f.byteOperand f.addrOperand
  exact ⟨_, hmnemonic.trans hm, by rw [hform, hmode, f.mode_form]⟩

/-! ## Undefined opcodes -/

theorem findSlot_eq_none_iff {opc : Byte} {l : List (Byte × Slot)} :
    findSlot opc l = none ↔ opc.toNat ∉ l.map (·.1.toNat) := by
  induction l with
  | nil => simp [findSlot]
  | cons row l ih =>
    obtain ⟨k, slot⟩ := row
    by_cases hk : k = opc
    · simp [findSlot, hk]
    · simp [findSlot, hk, ih, BitVec.toNat_inj, Ne.symm hk]

/-- The 256 byte values, one by one: no row has the opcode, or the list of R54 has it not. -/
theorem not_mem_opcodes_iff : ∀ opc : Byte, opc.toNat ∉ opcodeTable.map (·.1.toNat) ↔ opc.toNat ∈ undefinedOpcodes := by
  decide

theorem slotOf_eq_none_iff (opc : Byte) : slotOf opc = none ↔ opc.toNat ∈ undefinedOpcodes :=
  findSlot_eq_none_iff.trans (not_mem_opcodes_iff opc)

theorem decode_eq_undefined_iff (opc : Byte) (rest : List Byte) :
    decode (opc :: rest) = .undefinedOpcode opc ↔ slotOf opc = none := by
  refine ⟨fun h => ?_, fun h => decode_undefined h rest⟩
  cases hs : slotOf opc with
  | none => rfl
  | some slot =>
    obtain hshort | ⟨b, a, more, rfl⟩ := decode_slot_cases hs rest
    · cases hshort.symm.trans h
    · cases (decode_slot hs b a more).symm.trans h

/-- Settles O19: both say that the opcode has no slot. -/
theorem undefinedOpcodesAreTheListedOnes : Obligations.UndefinedOpcodesAreTheListedOnes := by
  unfold Obligations.UndefinedOpcodesAreTheListedOnes
  intro opc rest
  rw [decode_eq_undefined_iff, ← slotOf_none, slotOf_eq_none_iff]
  exact ⟨Iff.rfl, Iff.rfl⟩

/-- Settles O16: seven encodings and an undefined opcode, evaluated. -/
theorem writtenOutWordsDecode : Obligations.WrittenOutWordsDecode := by
  unfold Obligations.WrittenOutWordsDecode
  exact ⟨rfl, rfl, rfl, rfl, rfl, rfl, rfl, rfl⟩

/-! ## Displacements -/

theorem sext16_toNat (d : Byte) : (sext16 d).toNat = if d.toNat < 0x80 then d.toNat else d.toNat + 0xFF00 := by
  have hd := d.isLt
  have hz : (zext16 d).toNat = d.toNat := BitVec.toNat_setWidth_of_le (by decide)
  have hc : (0xFF00#16).toNat = 0xFF00 := rfl
  unfold sext16
  split
  · exact hz
  · rw [BitVec.toNat_add, hz, hc, Nat.mod_eq_of_lt (by omega)]

theorem sext16_toInt (d : Byte) :
    (sext16 d).toInt = if d.toNat < 0x80 then (d.toNat : Int) else (d.toNat : Int) - 0x100 := by
  have hd := d.isLt
  rw [BitVec.toInt_eq_toNat_cond, sext16_toNat]
  split <;> split <;> omega

/-- The low byte of an extended displacement is the displacement, so no two are extended alike. -/
@[simp] theorem loByte_sext16 (d : Byte) : loByte (sext16 d) = d := by
  apply BitVec.eq_of_toNat_eq
  rw [loByte, BitVec.extractLsb'_toNat, Nat.shiftRight_zero, sext16_toNat]
  split <;> omega

theorem branchDisplacement_eq_some_iff (branch target : Addr) (d : Byte) :
    branchDisplacement branch target = some d ↔ sext16 d = target - (branch + 2) := by
  simp only [branchDisplacement, Option.ite_none_right_eq_some, Option.some.injEq]
  constructor
  · rintro ⟨h, rfl⟩
    exact h
  · intro h
    rw [← h, loByte_sext16]
    exact ⟨rfl, rfl⟩

/-- Settles O21: the displacement is the one byte that extends to the distance, where there is one. -/
theorem branchDisplacementReachesItsTarget : Obligations.BranchDisplacementReachesItsTarget := by
  unfold Obligations.BranchDisplacementReachesItsTarget
  refine ⟨sext16_toInt, fun branch target d => ?_⟩
  rw [branchDisplacement_eq_some_iff, BitVec.eq_sub_iff_add_eq, BitVec.add_comm]

end Sys2Proof
end

section
/-! The stack unit and the resolver against the spec's own addresses (spec/40_step_and_addressing.md R64
to R82), the program counter outside the control flow, and the memory frame of the pushes. -/

namespace Sys2Proof.Machine

/-! ## The stack unit -/

theorem zext16_toNat (z : Byte) : (zext16 z).toNat = z.toNat := BitVec.toNat_setWidth_of_le (by decide)

/-- The stack address as R78 writes it: no carry leaves the page. -/
theorem stackAddr_eq_add (sp : Byte) : stackAddr sp = 0x0100#16 + zext16 sp := by
  apply BitVec.eq_of_toNat_eq
  have hsp := sp.isLt
  rw [stackAddr_toNat, BitVec.toNat_add, zext16_toNat, BitVec.toNat_ofNat]
  omega

theorem succ_ne_self (sp : Byte) : sp + 1 ≠ sp := by bv_omega

section
variable {s : State} (hs : Memory.wf 0x2000 s.ram = true)
include hs

theorem peek_push8_same (v : Byte) : peek (push8 v s) (stackAddr s.s) = some v := by
  simp only [peek, regionOf_stackAddr, push8_ram, Memory.read_write hs, if_true]

theorem peek_push16_high (w : Addr) : peek (push16 w s) (stackAddr s.s) = some (hiByte w) := by
  have hne : stackAddr s.s ≠ stackAddr (push8 (hiByte w) s).s := by
    rw [push8_s, Ne, stackAddr_inj]
    exact (succ_ne_self s.s).symm
  rw [push16, peek_push8_ne _ _ hne, peek_push8_same hs]

theorem peek_push16_low (w : Addr) : peek (push16 w s) (stackAddr (s.s + 1)) = some (loByte w) := by
  rw [push16, ← push8_s (hiByte w) s]
  exact peek_push8_same (push8_wf _ s hs) _

end

/-- A pull answers what the address below `S` holds. -/
theorem pull8_of_peek {s : State} {v : Byte} (h : peek s (stackAddr (s.s - 1)) = some v) :
    pull8 s = some (v, s.setS (s.s - 1)) :=
  busRead_peek (s := s.setS (s.s - 1)) h

theorem pull16_of_peek {s : State} {lo hi : Byte} (hlo : peek s (stackAddr (s.s - 1)) = some lo)
    (hhi : peek s (stackAddr (s.s - 1 - 1)) = some hi) : pull16 s = some (word16 hi lo, s.setS (s.s - 1 - 1)) := by
  have hhigh : pull8 (s.setS (s.s - 1)) = some (hi, s.setS (s.s - 1 - 1)) :=
    pull8_of_peek (s := s.setS (s.s - 1)) hhi
  rw [pull16, pull8_of_peek hlo]
  simp only [hhigh]

/-- After a push only RAM and `S` differ, so with `S` restored only RAM does. -/
theorem push8_setS (v : Byte) (s : State) : (push8 v s).setS s.s = s.setRam (push8 v s).ram := by
  rw [push8_eq]
  rfl

theorem push16_setS (w : Addr) (s : State) : (push16 w s).setS s.s = s.setRam (push16 w s).ram := by
  rw [push16, push8_eq, push8_eq]
  rfl

theorem pull8_push8 {s : State} (hs : Memory.wf 0x2000 s.ram = true) (v : Byte) :
    pull8 (push8 v s) = some (v, s.setRam (push8 v s).ram) := by
  have hsp : (push8 v s).s - 1 = s.s := by rw [push8_s, BitVec.add_sub_cancel]
  rw [← push8_setS, ← hsp]
  exact pull8_of_peek (by rw [hsp, peek_push8_same hs])

theorem pull16_push16 {s : State} (hs : Memory.wf 0x2000 s.ram = true) (w : Addr) :
    pull16 (push16 w s) = some (w, s.setRam (push16 w s).ram) := by
  have hlow : (push16 w s).s - 1 = s.s + 1 := by rw [push16_s, BitVec.add_sub_cancel]
  have hhigh : (push16 w s).s - 1 - 1 = s.s := by rw [hlow, BitVec.add_sub_cancel]
  have h := pull16_of_peek (s := push16 w s) (by rw [hlow]; exact peek_push16_low hs w)
    (by rw [hhigh]; exact peek_push16_high hs w)
  rwa [word16_bytes, hhigh, push16_setS] at h

/-- Settles O11: the byte lies on the stack page, which is RAM, and the address the pull reads is the one
the push wrote. -/
theorem pushAndPullByteOnTheStackPage : Obligations.PushAndPullByteOnTheStackPage := by
  unfold Obligations.PushAndPullByteOnTheStackPage
  intro v s hs
  rw [← stackAddr_eq_add]
  refine ⟨⟨_, push8_eq v s⟩, peek_push8_same hs v, fun b hb => peek_push8_ne v s hb, ?_, _, pull8_push8 hs v⟩
  rw [pull8_eq, stackAddr_toNat]
  rfl

/-- Settles O12: the two bytes of the pushed word lie at two stack addresses, and the pulls read them in
reverse. -/
theorem pushedWordComesBack : Obligations.PushedWordComesBack := by
  unfold Obligations.PushedWordComesBack
  intro w s hs
  rw [← stackAddr_eq_add, ← stackAddr_eq_add]
  exact ⟨peek_push16_high hs w, peek_push16_low hs w, fun b h1 h2 => peek_push16_ne w s h1 h2, _, pull16_push16 hs w⟩

/-! ## The resolver -/

theorem zext16_eq_ofNat (z : Byte) : zext16 z = BitVec.ofNat 16 z.toNat := by
  rw [← zext16_toNat, BitVec.ofNat_toNat, BitVec.setWidth_eq]

theorem add_zext16_eq_ofNat (a : Addr) (z : Byte) : a + zext16 z = BitVec.ofNat 16 (a.toNat + z.toNat) := by
  rw [BitVec.ofNat_add, BitVec.ofNat_toNat, BitVec.setWidth_eq, zext16_eq_ofNat]

/-- Settles O13: each mode's operand is the sum the model forms, read as a sum of naturals. -/
theorem resolverOfDirectModesAndOperandAccess : Obligations.ResolverOfDirectModesAndOperandAccess := by
  unfold Obligations.ResolverOfDirectModesAndOperandAccess
  intro s z d v a
  have hx : BitVec.ofNat 16 ((z.toNat + s.x.toNat) % 256) = zext16 (z + s.x) := (zext16_eq_ofNat (z + s.x)).symm
  have hy : BitVec.ofNat 16 ((z.toNat + s.y.toNat) % 256) = zext16 (z + s.y) := (zext16_eq_ofNat (z + s.y)).symm
  rw [hx, hy, ← zext16_eq_ofNat, ← add_zext16_eq_ofNat, ← add_zext16_eq_ofNat]
  exact ⟨rfl, rfl, rfl, rfl, rfl, rfl, rfl, rfl, rfl, rfl, rfl, rfl, rfl, rfl, rfl⟩

theorem resolve_indirectX (z : Byte) (s : State) :
    resolve (.indirectX z) s =
      some (.addr (word16 (Memory.read s.ram (z + s.x + 1).toNat) (Memory.read s.ram (z + s.x).toNat)), advance 2 s) := by
  simp only [resolve, read16Bug_zext16, zext16_toNat, advance_ram]

theorem resolve_indirectY (z : Byte) (s : State) :
    resolve (.indirectY z) s =
      some (.addr (word16 (Memory.read s.ram (z + 1).toNat) (Memory.read s.ram z.toNat) + zext16 s.y), advance 2 s) := by
  simp only [resolve, read16Bug_zext16, zext16_toNat, advance_ram, advance_y]

/-- Settles O14: the zero-page pointers by their two bytes in RAM, the indirect one by its read. -/
theorem resolverOfPointerModes : Obligations.ResolverOfPointerModes := by
  unfold Obligations.ResolverOfPointerModes
  refine ⟨fun s z => ⟨?_, ?_⟩, fun s t p a h => ?_⟩
  · have hlo : (z + s.x).toNat = (z.toNat + s.x.toNat) % 256 := BitVec.toNat_add z s.x
    have hhi : (z + s.x + 1).toNat = (z.toNat + s.x.toNat + 1) % 256 := by bv_omega
    rw [resolve_indirectX, hlo, hhi]
    rfl
  · have hhi : (z + 1).toNat = (z.toNat + 1) % 256 := BitVec.toNat_add z 1
    rw [resolve_indirectY, hhi, zext16_eq_ofNat]
    rfl
  · have hp : read16Bug p (advance 3 s) = some (a, t) := h
    simp only [resolve, hp]

/-- Settles O15: the frame of a resolver is a read frame. -/
theorem resolverMovesOnlyThePc : Obligations.ResolverMovesOnlyThePc := by
  unfold Obligations.ResolverMovesOnlyThePc
  intro f s t op h
  obtain ⟨hframe, hpc⟩ := resolve_frame h
  exact ⟨hpc, hframe.eq, hframe.input⟩

/-! ## Where `PC` ends -/

theorem effect_keeps_pc {m : Mnemonic} (op : Operand) (hm : m ∉ pcWriters) : (effect m).Keeps State.pc op := by
  cases m
  case bcc | bcs | beq | bne | bmi | bpl | bvc | bvs | jmp | jsr | rts | rti | brk => exact absurd (by decide) hm
  all_goals simp [effect, Effect.Keeps, Effect.Within]

/-- The operand read leaves `PC` alone, so what the mnemonic does decides. -/
theorem did_pc {e : Effect} {op : Operand} {u t : State} (he : e.Keeps State.pc op) (hd : e.Did op u t) : t.pc = u.pc := by
  cases e with
  | target g =>
    rw [show t = g op u from hd]
    exact he u
  | value g =>
    obtain ⟨v, w, -, -, hpc, rfl⟩ := hd
    exact (he v w).trans hpc
  | step g =>
    obtain ⟨v, w, -, -, hpc, rfl⟩ := hd
    exact (he _ w).trans hpc
  | shift g =>
    obtain ⟨v, w, -, -, hpc, rfl⟩ := hd
    exact (he _ _ w).trans hpc

theorem encode_length (i : Instr) : (encode i).length = i.form.mode.length := by
  cases i <;> rfl

/-- The relative mode is the branches' (30_encoding.md R53). -/
theorem mode_ne_relative {i : Instr} (h : i.mnemonic ∉ pcWriters) : i.form.mode ≠ .relative := by
  cases i
  case bcc | bcs | beq | bne | bmi | bpl | bvc | bvs => exact absurd (by simp [Instr.mnemonic, pcWriters]) h
  all_goals exact nofun

/-- Settles O49: the resolver leaves `PC` past the instruction, and nothing after it writes `PC`. -/
theorem pcAdvancesByTheLength : Obligations.PcAdvancesByTheLength := by
  unfold Obligations.PcAdvancesByTheLength
  intro i s t hm h
  obtain ⟨op, u, -, -, hpc, hd⟩ := exec_next h
  rw [did_pc (effect_keeps_pc op hm) hd, hpc, if_neg (mode_ne_relative hm), encode_length]

/-! ## The memory frame of the pushes -/

theorem jumpTo_memory (op : Operand) (s : State) : (jumpTo op s).memory = s.memory := by
  cases op <;> rfl

/-- The stack bytes a mnemonic may write, counted from `S`. -/
theorem did_push_frame {m : Mnemonic} {op : Operand} {u t : State} {b : Addr} (hm : m ∈ pushMnemonics)
    (hd : (effect m).Did op u t) (h0 : b ≠ stackAddr u.s) (h1 : m = .jsr ∨ m = .brk → b ≠ stackAddr (u.s + 1))
    (h2 : m = .brk → b ≠ stackAddr (u.s + 2)) : peek t b = peek u b ∧ t.output = u.output := by
  cases m
  case pha | php =>
    obtain rfl := hd
    exact ⟨peek_push8_ne _ u h0, push8_output _ u⟩
  case jsr =>
    obtain rfl := hd
    have hmem := jumpTo_memory op (push16 (u.pc - 1) u)
    rw [peek_of_memory_eq hmem, output_of_memory_eq hmem]
    exact ⟨peek_push16_ne _ u h0 (h1 (.inl rfl)), push16_output _ u⟩
  case brk =>
    obtain rfl := hd
    have hsp : (push16 u.pc u).s = u.s + 2 := by rw [push16_s, BitVec.add_assoc]; rfl
    have hp : peek (push8 (pushedStatus u.p) (push16 u.pc u)) b = peek u b := by
      rw [peek_push8_ne _ _ (hsp ▸ h2 rfl), peek_push16_ne _ _ h0 (h1 (.inr rfl))]
    exact ⟨hp, (push8_output _ _).trans (push16_output _ u)⟩
  all_goals exact absurd hm (by decide)

/-- Settles O54: the frame of one, two or three pushes after the resolver. -/
theorem pushesChangeOnlyTheStackBytes : Obligations.PushesChangeOnlyTheStackBytes := by
  unfold Obligations.PushesChangeOnlyTheStackBytes
  intro i s t b h hm h0 h1 h2
  obtain ⟨op, u, -, hu, -, hd⟩ := exec_next h
  rw [← hu.peek, ← hu.output]
  rw [← hu.s] at h0 h1 h2
  exact did_push_frame hm hd h0 h1 h2

end Sys2Proof.Machine
end

section
/-! What a step runs (spec/40_step_and_addressing.md R60 to R63, 20_memory.md R43): reading the bytes of an
instruction one after another, the fetch and the step that such a read gives, and the placed table word. -/

namespace Sys2Proof.Machine

/-! ## Reading bytes in order -/

theorem readBytes_cons_iff {n : Nat} {a : Addr} {s u : State} {b : Byte} {bs : List Byte} :
    readBytes (n + 1) a s = some (b :: bs, u) ↔
      ∃ t, busRead a s = some (b, t) ∧ readBytes n (a + 1) t = some (bs, u) := by
  constructor
  · intro h
    simp only [readBytes] at h
    split at h
    · cases h
    · rename_i v t hv
      split at h
      · cases h
      · rename_i vs w hvs
        cases h
        exact ⟨t, hv, hvs⟩
  · rintro ⟨t, hb, hbs⟩
    simp only [readBytes, hb, hbs]

/-- Bytes that lie in RAM or program storage are read without side effect. -/
theorem readBytes_of_peek {bytes : List Byte} {a : Addr} {s : State}
    (h : ∀ (k : Nat) (b : Byte), bytes[k]? = some b → peek s (a + BitVec.ofNat 16 k) = some b) :
    readBytes bytes.length a s = some (bytes, s) := by
  induction bytes generalizing a with
  | nil => rfl
  | cons b bytes ih =>
    refine readBytes_cons_iff.2 ⟨s, busRead_peek ?_, ih fun k v hv => ?_⟩
    · simpa using h 0 b rfl
    · have hnext : a + 1 + BitVec.ofNat 16 k = a + BitVec.ofNat 16 (k + 1) := by bv_omega
      rw [hnext]
      exact h (k + 1) v hv

/-- The first bytes of a longer read can be read alone. -/
theorem readBytes_of_append {n : Nat} {bytes rest : List Byte} {a : Addr} {s u : State}
    (h : readBytes (bytes.length + n) a s = some (bytes ++ rest, u)) :
    ∃ t, readBytes bytes.length a s = some (bytes, t) := by
  induction bytes generalizing a s with
  | nil => exact ⟨s, rfl⟩
  | cons b bytes ih =>
    rw [List.length_cons, Nat.add_right_comm] at h
    obtain ⟨t, hb, hbs⟩ := readBytes_cons_iff.1 h
    obtain ⟨w, hw⟩ := ih hbs
    exact ⟨w, readBytes_cons_iff.2 ⟨t, hb, hw⟩⟩

/-! ## The fetch and the step -/

section
variable {s t u : State} {opc : Byte} {i : Instr}

theorem not_halting_of_busRead (hb : busRead s.pc s = some (opc, t))
    (hh : ¬(s.par.haltOnNop = true ∧ opc = Config.haltOpcode)) :
    (t.par.haltOnNop && opc == Config.haltOpcode) = false := by
  rw [(busRead_frame hb).1.par, ← Bool.not_eq_true]
  simpa using hh

theorem fetch_of_reads {n : Nat} {bytes rest : List Byte} (hb : busRead s.pc s = some (opc, t))
    (hh : ¬(s.par.haltOnNop = true ∧ opc = Config.haltOpcode)) (hn : opcodeLength opc = some n)
    (hr : readBytes (n - 1) (s.pc + 1) t = some (bytes, u)) (hd : decode (opc :: bytes) = .instr i rest) :
    fetch s = .instr i u := by
  simp only [fetch, hb, not_halting_of_busRead hb hh, hn, hr, hd, Bool.false_eq_true, if_false]

theorem fetch_of_halting (hb : busRead s.pc s = some (Config.haltOpcode, t)) (hpol : s.par.haltOnNop = true) :
    fetch s = .halt t := by
  have hpar : t.par.haltOnNop = true := by rw [(busRead_frame hb).1.par, hpol]
  simp only [fetch, hb, hpar, beq_self_eq_true, Bool.and_self, if_true]

theorem fetch_of_undefined (hb : busRead s.pc s = some (opc, t))
    (hh : ¬(s.par.haltOnNop = true ∧ opc = Config.haltOpcode)) (hn : opcodeLength opc = none) :
    fetch s = .undefinedOpcode opc t := by
  simp only [fetch, hb, not_halting_of_busRead hb hh, hn, Bool.false_eq_true, if_false]

theorem step_of_fetch_instr (hrun : s.run = .running) (h : fetch s = .instr i u) : step s = exec i u := by
  rw [step, hrun, h]

theorem step_of_fetch_halt (hrun : s.run = .running) (h : fetch s = .halt u) : step s = .next (u.setRun .halted) := by
  rw [step, hrun, h]
  rfl

theorem step_of_fetch_undefined (hrun : s.run = .running) (h : fetch s = .undefinedOpcode opc u) :
    step s = .fault (.undefinedOpcode opc s.pc (u.setRun .faulted)) := by
  rw [← (busRead_frame (fetch_undefinedOpcode h).1).2, step, hrun, h]
  rfl

theorem step_of_stopped (h : s.run ≠ .running) : step s = .next s := by
  unfold step
  cases hr : s.run
  case running => exact absurd hr h
  all_goals rfl

/-- Only the bytes of NOP begin with the halting opcode. -/
theorem eq_nop_of_encode {operands : List Byte} (h : encode i = Config.haltOpcode :: operands) : i = .nop := by
  have hi := decode_encode i []
  rw [List.append_nil, h] at hi
  cases (decode_encode .nop operands).symm.trans hi
  rfl

/-- The bytes of an instruction at `PC` make the step that instruction. -/
theorem step_of_readBytes_encode (hrun : s.run = .running) (hh : ¬(s.par.haltOnNop = true ∧ i = .nop))
    (hr : readBytes (encode i).length s.pc s = some (encode i, u)) : step s = exec i u := by
  obtain ⟨opc, slot, b, a, hs, henc, -⟩ := decode_eq_instr (decode_encode i [])
  rw [List.append_nil, List.append_nil] at henc
  have hlen : opcodeLength opc = some ((slot.operandBytes b a).length + 1) := by
    rw [opcodeLength, hs]
    cases slot <;> rfl
  have hopc : ¬(s.par.haltOnNop = true ∧ opc = Config.haltOpcode) := by
    rintro ⟨hpol, rfl⟩
    exact hh ⟨hpol, eq_nop_of_encode henc⟩
  rw [henc] at hr
  obtain ⟨t, hb, hbs⟩ := readBytes_cons_iff.1 hr
  refine step_of_fetch_instr hrun (fetch_of_reads (rest := []) hb hopc hlen hbs ?_)
  rw [← henc, ← List.append_nil (encode i), decode_encode]

end

/-- Settles O22: the fetch finds the instruction. -/
theorem stepRunsTheFetchedInstruction : Obligations.StepRunsTheFetchedInstruction := by
  unfold Obligations.StepRunsTheFetchedInstruction
  intro s t u opc bytes rest n i hrun hb hh hn hr hd
  exact step_of_fetch_instr hrun (fetch_of_reads hb hh hn hr hd)

/-- Settles O23: reading bytes of memory changes nothing. -/
theorem stepRunsTheInstructionInMemory : Obligations.StepRunsTheInstructionInMemory := by
  unfold Obligations.StepRunsTheInstructionInMemory
  intro s i hrun hh hbytes
  exact step_of_readBytes_encode hrun hh (readBytes_of_peek hbytes)

/-- Settles O27: an undefined opcode has no length, and it is not the halting one. -/
theorem undefinedOpcodeFaults : Obligations.UndefinedOpcodeFaults := by
  unfold Obligations.UndefinedOpcodeFaults
  intro s t opc hrun hb hopc
  have hn : opcodeLength opc = none := slotOf_none.1 ((slotOf_eq_none_iff opc).2 hopc)
  have hh : opc ≠ Config.haltOpcode := by
    rintro rfl
    exact absurd hopc (by decide)
  exact step_of_fetch_undefined hrun (fetch_of_undefined hb (fun h => hh h.2) hn)

/-- Settles O28, by induction on the number of steps. -/
theorem stoppedCoreDoesNothing : Obligations.StoppedCoreDoesNothing := by
  unfold Obligations.StoppedCoreDoesNothing
  intro k s hs
  refine ⟨?_, rfl, rfl⟩
  induction k with
  | zero => rfl
  | succ k ih => rw [run_succ_of_next (M := Sys2Proof.core) k (step_of_stopped hs), ih]

/-- Settles O26: an instruction keeps the run state, so a step that leaves `Running` halted or faulted in
its fetch. -/
theorem runningIsLeftOnlyByHaltOrFault : Obligations.RunningIsLeftOnlyByHaltOrFault := by
  unfold Obligations.RunningIsLeftOnlyByHaltOrFault
  refine fun s hrun => ⟨fun t h => ?_, fun opc a u h => ?_⟩
  · obtain ⟨hstop, -⟩ | ⟨-, i, u, hf, hx⟩ | ⟨-, u, hf, rfl⟩ := step_cases h
    · exact absurd hrun hstop
    · exact .inl (by rw [exec_run hx, (fetch_instr hf).1.run, hrun])
    · obtain ⟨hb, hpol⟩ := fetch_halt hf
      exact .inr ⟨hpol, u, hb, rfl⟩
  · obtain ⟨-, ha, hn, v, hb, rfl⟩ := step_undefinedOpcode h
    exact ⟨rfl, ha, (slotOf_eq_none_iff opc).1 (slotOf_none.2 hn), v, hb, rfl⟩

/-! ## Placing bytes where the fetch finds them -/

/-- Bytes placed one after another from `a` on. -/
def placeBytes : Addr → List Byte → State → State
  | _, [], s => s
  | a, b :: bs, s => placeByte a b (placeBytes (a + 1) bs s)

/-- The three bytes of a table word, byte 0 the least significant. -/
def tableBytes (nbits w : Nat) : List Byte :=
  [BitVec.ofNat 8 (w % 2 ^ nbits), BitVec.ofNat 8 (w % 2 ^ nbits / 256), BitVec.ofNat 8 (w % 2 ^ nbits / 65536)]

theorem placeWord_eq_placeBytes (s : State) (nbits w : Nat) :
    placeWord s nbits w = placeBytes s.pc (tableBytes nbits w) (s.setRun .running) := by
  simp only [placeWord, placeBytes, tableBytes, BitVec.add_assoc]
  rfl

theorem decode_tableBytes {nbits w : Nat} {i : Instr} (h : decodeTableWord nbits w = some i) :
    ∃ rest, decode (tableBytes nbits w) = .instr i rest := by
  simp only [decodeTableWord] at h
  split at h
  · rename_i j rest hd
    cases h
    exact ⟨rest, hd⟩
  · cases h

/-- Placing bytes reaches RAM, ROM and the input alone. -/
theorem placeByte_eq (a : Addr) (b : Byte) (s : State) :
    ∃ m i r, placeByte a b s = { s with ram := m, input := i, par := { s.par with rom := r } } := by
  unfold placeByte
  cases regionOf a
  case ram => exact ⟨_, s.input, s.par.rom, rfl⟩
  case io => exact ⟨s.ram, _, s.par.rom, rfl⟩
  case rom => exact ⟨s.ram, s.input, _, rfl⟩

theorem placeBytes_eq (a : Addr) (bs : List Byte) (s : State) :
    ∃ m i r, placeBytes a bs s = { s with ram := m, input := i, par := { s.par with rom := r } } := by
  induction bs generalizing a with
  | nil => exact ⟨s.ram, s.input, s.par.rom, rfl⟩
  | cons b bs ih =>
    obtain ⟨m, i, r, h⟩ := ih (a + 1)
    rw [placeBytes, h]
    exact placeByte_eq a b _

/-- RAM and ROM in canonical form: the memory part of the invariant. -/
def State.memoryWf (s : State) : Prop :=
  Memory.wf Config.ramSize s.ram = true ∧ Memory.wf Config.romSize s.par.rom = true

theorem romIndex_lt (a : Addr) : romIndex a < Config.romSize := Nat.mod_lt _ (by decide)

theorem placeByte_memoryWf {s : State} (h : s.memoryWf) (a : Addr) (b : Byte) : (placeByte a b s).memoryWf := by
  obtain ⟨hram, hrom⟩ := h
  unfold placeByte
  cases hr : regionOf a
  case ram => exact ⟨Memory.write_wf hram (regionOf_ram.1 hr) b, hrom⟩
  case io => exact ⟨hram, hrom⟩
  case rom => exact ⟨hram, Memory.write_wf hrom (romIndex_lt a) b⟩

theorem placeBytes_memoryWf {s : State} (h : s.memoryWf) (a : Addr) (bs : List Byte) : (placeBytes a bs s).memoryWf := by
  induction bs generalizing a with
  | nil => exact h
  | cons b bs ih => exact placeByte_memoryWf (ih (a + 1)) a b

/-- A placed byte is read back; one placed at the console is taken again by that read. -/
theorem busRead_placeByte_same {s : State} (h : s.memoryWf) (a : Addr) (b : Byte) :
    busRead a (placeByte a b s) = some (b, placeByte a b s) ∨ busRead a (placeByte a b s) = some (b, s) := by
  obtain ⟨hram, hrom⟩ := h
  unfold placeByte busRead
  cases regionOf a
  case ram => exact .inl (by simp [Memory.read_write hram])
  case io => exact .inr (by simp only [ioRead, State.setInput_input, nextInput_prepend]; rfl)
  case rom => exact .inl (by simp [Memory.read_write hrom])

/-! A byte placed at another address, which is not the mirror of `a` in program storage, does not disturb a
read of `a`. -/

section
variable {a c : Addr} {b v : Byte} {s t : State} (hne : romIndex a ≠ romIndex c)
include hne

theorem peek_placeByte_ne : peek (placeByte c b s) a = peek s a := by
  have hac : a.toNat ≠ c.toNat := fun h => hne (by rw [romIndex, romIndex, h])
  unfold placeByte
  cases regionOf c
  case ram => simp [peek, Memory.read_write_ne _ hac]
  case io => rfl
  case rom => simp [peek, Memory.read_write_ne _ hne]

theorem busRead_placeByte_ne (h : busRead a s = some (v, t)) :
    busRead a (placeByte c b s) = some (v, placeByte c b t) := by
  obtain ⟨hp, rfl⟩ | ⟨rfl, hin, ht⟩ := busRead_cases h
  · exact busRead_peek (by rw [peek_placeByte_ne hne, hp])
  · rw [ht]
    unfold placeByte
    cases hc : regionOf c
    case io => exact absurd (congrArg romIndex (regionOf_io.1 hc).symm) hne
    all_goals exact busRead_io hin

end

theorem readBytes_placeByte_ne {n : Nat} {a c : Addr} {b : Byte} {bs : List Byte} {s t : State}
    (hne : ∀ k < n, romIndex (a + BitVec.ofNat 16 k) ≠ romIndex c) (h : readBytes n a s = some (bs, t)) :
    readBytes n a (placeByte c b s) = some (bs, placeByte c b t) := by
  induction n generalizing a s bs with
  | zero =>
    cases h
    rfl
  | succ n ih =>
    match bs, readBytes_length h with
    | v :: vs, _ =>
      obtain ⟨u, hv, hvs⟩ := readBytes_cons_iff.1 h
      refine readBytes_cons_iff.2 ⟨_, busRead_placeByte_ne ?_ hv, ih (fun k hk => ?_) hvs⟩
      · simpa using hne 0 (by omega)
      · have hnext : a + 1 + BitVec.ofNat 16 k = a + BitVec.ofNat 16 (k + 1) := by bv_omega
        rw [hnext]
        exact hne (k + 1) (by omega)

/-- Placed bytes are read back in order, as long as no two of them share a byte of program storage. -/
theorem readBytes_placeBytes {s : State} (hs : s.memoryWf) {bs : List Byte} (hlen : bs.length ≤ 0x8000) (a : Addr) :
    ∃ t, readBytes bs.length a (placeBytes a bs s) = some (bs, t) := by
  induction bs generalizing a with
  | nil => exact ⟨s, rfl⟩
  | cons b bs ih =>
    rw [List.length_cons] at hlen
    obtain ⟨u, hu⟩ := ih (by omega) (a + 1)
    obtain hb | hb := busRead_placeByte_same (placeBytes_memoryWf hs (a + 1) bs) a b
    · have hne : ∀ k < bs.length, romIndex (a + 1 + BitVec.ofNat 16 k) ≠ romIndex a := by
        intro k hk
        have hk16 : (a + 1 + BitVec.ofNat 16 k).toNat = (a.toNat + 1 + k) % 65536 := by bv_omega
        rw [romIndex, romIndex, hk16, Config.romSize]
        omega
      exact ⟨_, readBytes_cons_iff.2 ⟨_, hb, readBytes_placeByte_ne hne hu⟩⟩
    · exact ⟨u, readBytes_cons_iff.2 ⟨_, hb, hu⟩⟩

/-- Settles O24: the placed bytes are read back, and they begin with those of the instruction. -/
theorem placedWordRunsNext : Obligations.PlacedWordRunsNext := by
  unfold Obligations.PlacedWordRunsNext
  intro s nbits w i hram hrom hw hh
  obtain ⟨rest, hd⟩ := decode_tableBytes hw
  have henc : tableBytes nbits w = encode i ++ rest := decodedBytesAreTheEncoding _ _ _ hd
  have hwf : (s.setRun .running).memoryWf := ⟨hram, hrom⟩
  obtain ⟨u, hu⟩ := readBytes_placeBytes hwf (bs := tableBytes nbits w) (by simp [tableBytes]) s.pc
  obtain ⟨m, inp, r, hplaced⟩ := placeBytes_eq s.pc (tableBytes nbits w) (s.setRun .running)
  rw [State.withFetchWord, placeWord_eq_placeBytes]
  rw [hplaced] at hu ⊢
  rw [henc, List.length_append] at hu
  obtain ⟨t, ht⟩ := readBytes_of_append hu
  obtain ⟨hframe, hpc⟩ := readBytes_frame ht
  exact ⟨t, step_of_readBytes_encode rfl hh ht, hpc, hframe.a, hframe.x, hframe.y, hframe.s, hframe.p, hframe.run,
    hframe.output⟩

/-! ## At most one console read in a fetch -/

/-- An address other than the console's holds a byte. -/
theorem exists_peek {a : Addr} (s : State) (h : a ≠ 0x2000#16) : ∃ v, peek s a = some v := by
  unfold peek
  cases hr : regionOf a
  case io => exact absurd (regionOf_io.1 hr) h
  all_goals exact ⟨_, rfl⟩

theorem readBytes_of_ne_console {n : Nat} {a : Addr} {s : State} (h : ∀ k < n, a + BitVec.ofNat 16 k ≠ 0x2000#16) :
    ∃ bs, readBytes n a s = some (bs, s) := by
  induction n generalizing a with
  | zero => exact ⟨[], rfl⟩
  | succ n ih =>
    obtain ⟨v, hv⟩ := exists_peek s (a := a) (by simpa using h 0 (by omega))
    obtain ⟨vs, hvs⟩ := ih (a := a + 1) fun k hk => by
      have hnext : a + 1 + BitVec.ofNat 16 k = a + BitVec.ofNat 16 (k + 1) := by bv_omega
      rw [hnext]
      exact h (k + 1) (by omega)
    exact ⟨v :: vs, readBytes_cons_iff.2 ⟨s, busRead_peek hv, hvs⟩⟩

/-- At most one byte of the input was taken from `s` to `t`. -/
def takesAtMostOne (s t : State) : Prop :=
  t.input = s.input ∨ ∃ b, nextInput s.input = some (b, t.input)

/-- Bytes at different addresses: the console is among them once at most, so one input byte is enough. -/
theorem readBytes_completes {n : Nat} {a : Addr} {s : State} (hn : n ≤ 65536) (hin : s.input ≠ .empty) :
    ∃ bs t, readBytes n a s = some (bs, t) ∧ takesAtMostOne s t := by
  induction n generalizing a with
  | zero => exact ⟨[], s, rfl, .inl rfl⟩
  | succ n ih =>
    obtain ⟨⟨v, u⟩, hv⟩ := Option.ne_none_iff_exists'.1 fun h : busRead a s = none => hin (busRead_none.1 h).2
    obtain rfl | ⟨rfl, hnext⟩ := busRead_input hv
    · obtain ⟨vs, t, hvs, ht⟩ := ih (by omega) (a := a + 1)
      exact ⟨v :: vs, t, readBytes_cons_iff.2 ⟨_, hv, hvs⟩, ht⟩
    · obtain ⟨vs, hvs⟩ := readBytes_of_ne_console (n := n) (a := 0x2000#16 + 1) (s := u) fun k hk => by bv_omega
      exact ⟨v :: vs, u, readBytes_cons_iff.2 ⟨_, hv, hvs⟩, .inr ⟨v, hnext⟩⟩

theorem opcodeLength_le {opc : Byte} {n : Nat} (h : opcodeLength opc = some n) : n ≤ 3 := by
  obtain ⟨slot, -, rfl⟩ := Option.map_eq_some_iff.1 h
  cases slot <;> simp [Slot.length]

/-- With a byte of input left the fetch halts, finds an undefined opcode, or finds an instruction and took at
most that byte. -/
theorem fetch_completes {s : State} (hin : s.input ≠ .empty) :
    (∃ u, fetch s = .halt u) ∨ (∃ opc u, fetch s = .undefinedOpcode opc u) ∨
      ∃ i u, fetch s = .instr i u ∧ takesAtMostOne s u := by
  obtain ⟨⟨opc, t⟩, hb⟩ := Option.ne_none_iff_exists'.1 fun h : busRead s.pc s = none => hin (busRead_none.1 h).2
  by_cases hh : s.par.haltOnNop = true ∧ opc = Config.haltOpcode
  · obtain ⟨hpol, rfl⟩ := hh
    exact .inl ⟨t, fetch_of_halting hb hpol⟩
  · cases hn : opcodeLength opc with
    | none => exact .inr (.inl ⟨opc, t, fetch_of_undefined hb hh hn⟩)
    | some n =>
      have hlen := opcodeLength_le hn
      obtain ⟨bs, u, hall, hu⟩ := readBytes_completes (n := n - 1 + 1) (a := s.pc) (by omega) hin
      match bs, readBytes_length hall with
      | b :: bs, _ =>
        obtain ⟨t', hb', hr⟩ := readBytes_cons_iff.1 hall
        cases hb.symm.trans hb'
        obtain ⟨i, rest, hd⟩ := decode_of_length hn (readBytes_length hr)
        exact .inr (.inr ⟨i, u, fetch_of_reads hb hh hn hr hd, hu⟩)

/-- Two bytes or an endless rest: whatever one read leaves is not empty. -/
theorem nextInput_ne_empty {i r : InputSeq} {b : Byte} (h : i.endless ≠ none ∨ 2 ≤ i.given.length)
    (hr : nextInput i = some (b, r)) : r ≠ .empty := by
  obtain ⟨given, endless⟩ := i
  obtain hend | hlen := h
  · apply ne_empty_of_endless
    rw [nextInput_endless_isSome hr, Option.isSome_iff_ne_none]
    exact hend
  · match given, hlen with
    | _ :: c :: given, _ =>
      cases hr
      exact nofun

theorem ne_empty_of_two {i : InputSeq} (h : i.endless ≠ none ∨ 2 ≤ i.given.length) : i ≠ .empty := by
  rintro rfl
  simp [InputSeq.empty] at h

/-- Settles O31: the fetch takes one byte at most, and the instruction completes with the other. -/
theorem everyStepCompletesOrFaults : Obligations.EveryStepCompletesOrFaults := by
  unfold Obligations.EveryStepCompletesOrFaults
  intro s htwo
  have hin := ne_empty_of_two htwo
  by_cases hrun : s.run = .running
  · obtain ⟨u, hf⟩ | ⟨opc, u, hf⟩ | ⟨i, u, hf, htook⟩ := fetch_completes hin
    · exact .inl ⟨_, step_of_fetch_halt hrun hf⟩
    · obtain ⟨hb, hn⟩ := fetch_undefinedOpcode hf
      exact .inr ⟨opc, u, hb, (slotOf_eq_none_iff opc).1 (slotOf_none.2 hn), step_of_fetch_undefined hrun hf⟩
    · have hu : u.input ≠ .empty := by
        obtain heq | ⟨b, hnext⟩ := htook
        · rwa [heq]
        · exact nextInput_ne_empty htwo hnext
      rw [step_of_fetch_instr hrun hf]
      exact .inl (everyInstructionCompletesWithInput i u hu)
  · exact .inl ⟨s, step_of_stopped hrun⟩

end Sys2Proof.Machine
end

section
/-! Loads, stores and transfers (spec/41_load_store_transfer.md R90 to R101): each is one `Effect` run on
its resolved operand, and the store modes resolve to an address without reading the console. -/

namespace Sys2Proof.Machine

/-! ## An instruction by its effect -/

theorem exec_of_target {i : Instr} {s t : State} {op : Operand} {g : Operand → State → State}
    (he : effect i.mnemonic = .target g) (hr : resolve i.form s = some (op, t)) : exec i s = .next (g op t) := by
  rw [exec_eq_effect, he]
  exact withTarget_next.2 ⟨op, t, hr, rfl⟩

theorem exec_of_value {i : Instr} {s t u : State} {op : Operand} {v : Byte} {g : Byte → State → State}
    (he : effect i.mnemonic = .value g) (hr : resolve i.form s = some (op, t)) (hl : load op t = some (v, u)) :
    exec i s = .next (g v u) := by
  rw [exec_eq_effect, he]
  exact withValue_next.2 ⟨op, t, v, u, hr, hl, rfl⟩

/-- An implied instruction has no operand, and its resolver advances `PC` by 1 (40_step_and_addressing.md R64). -/
theorem exec_of_implied {i : Instr} {s t : State} {g : Operand → State → State} (he : effect i.mnemonic = .target g)
    (hf : i.form = .implied) (ht : t = g .none (advance 1 s)) : exec i s = .next t := by
  rw [ht]
  exact exec_of_target he (by rw [hf, resolve])

/-! ## Loads and transfers -/

/-- Settles O32: a load is the register and the flags set from the value read. -/
theorem loadsSetTheRegisterAndZN : Obligations.LoadsSetTheRegisterAndZN := by
  unfold Obligations.LoadsSetTheRegisterAndZN
  intro i s t u op v hr hl
  exact ⟨fun hm => exec_of_value (congrArg effect hm) hr hl, fun hm => exec_of_value (congrArg effect hm) hr hl,
    fun hm => exec_of_value (congrArg effect hm) hr hl⟩

/-- Settles O34: a transfer is implied, and sets its register, for all but TXS with the flags. -/
theorem transfersCopyRegisters : Obligations.TransfersCopyRegisters := by
  unfold Obligations.TransfersCopyRegisters
  intro s
  exact ⟨exec_of_implied rfl rfl rfl, exec_of_implied rfl rfl rfl, exec_of_implied rfl rfl rfl,
    exec_of_implied rfl rfl rfl, exec_of_implied rfl rfl rfl, exec_of_implied rfl rfl rfl⟩

/-! ## Stores -/

/-- The modes that resolve to an address in every state; the indirect one may wait for its pointer. -/
def addressModes : List Mode :=
  [.zeroPage, .zeroPageX, .zeroPageY, .absolute, .absoluteX, .absoluteY, .indirectX, .indirectY]

/-- A zero-page pointer lies in RAM, so no address mode takes input. -/
theorem resolve_addressMode {f : Form} (h : f.mode ∈ addressModes) (s : State) :
    ∃ a, resolve f s = some (.addr a, advance f.mode.length s) := by
  cases f
  case indirectX z => exact ⟨_, resolve_indirectX z s⟩
  case indirectY z => exact ⟨_, resolve_indirectY z s⟩
  case implied | accumulator | immediate | relative | indirect => simp [Form.mode, addressModes] at h
  all_goals exact ⟨_, rfl⟩

theorem mode_mem_addressModes_of_store {i : Instr} (h : i.mnemonic ∈ [Mnemonic.sta, .stx, .sty]) :
    i.form.mode ∈ addressModes := by
  cases i <;> simp_all [Instr.mnemonic, Instr.form, Form.mode, addressModes]

/-- A store writes its register at the resolved address and reads nothing. -/
theorem exec_store {i : Instr} {s t : State} {a : Addr} (hm : i.mnemonic ∈ [Mnemonic.sta, .stx, .sty])
    (hr : resolve i.form s = some (.addr a, t)) :
    exec i s = .next (busWrite a (if i.mnemonic = .sta then t.a else if i.mnemonic = .stx then t.x else t.y) t) := by
  simp only [List.mem_cons, List.not_mem_nil, or_false] at hm
  obtain hm | hm | hm := hm
  all_goals
    rw [exec_of_target (congrArg effect hm) hr, hm]
    rfl

/-- Settles O33: the address is the resolver's, and the resolver only moves `PC`. -/
theorem storesWriteTheRegister : Obligations.StoresWriteTheRegister := by
  unfold Obligations.StoresWriteTheRegister
  intro i s hm
  obtain ⟨a, hr⟩ := resolve_addressMode (mode_mem_addressModes_of_store hm) s
  exact ⟨a, hr, exec_store hm hr⟩

end Sys2Proof.Machine
end

section
/-! Arithmetic (spec/42_arithmetic.md R110 to R124): the adder and the subtractor against the integers, and the
instructions that use them, each one `Effect` run on its resolved operand. -/

namespace Sys2Proof.Machine

/-! ## The adder -/

/-- The adder's outputs are three. -/
theorem AluOut.ext_fields {q r : AluOut} (hresult : q.result = r.result) (hcarry : q.carry = r.carry)
    (hovf : q.ovf = r.ovf) : q = r := by
  cases q
  cases r
  simp_all

/-- The mask of R110 and R111 compares two sign bits. -/
theorem xor_and_signBit_eq_zero (x y : Byte) : (((x ^^^ y) &&& 0x80#8) == 0#8) = (x.msb == y.msb) := by
  have hmask : (x ^^^ y) &&& 0x80#8 = if (x ^^^ y).msb then 0x80#8 else 0#8 := by
    rw [BitVec.msb_eq_getLsbD_last]
    exact BitVec.and_twoPow (x ^^^ y) 7
  rw [hmask, BitVec.msb_xor]
  cases x.msb <;> cases y.msb <;> rfl

theorem add8_result_toNat (a b : Byte) (c : Bool) :
    (add8 a b c).result.toNat = (a.toNat + b.toNat + c.toNat) % 256 := BitVec.toNat_ofNat _ _

theorem add8_carry_iff (a b : Byte) (c : Bool) :
    (add8 a b c).carry = true ↔ 255 < a.toNat + b.toNat + c.toNat := decide_eq_true_iff

/-- The adder overflows when the operands have one sign and the result has the other. -/
theorem add8_ovf_iff_signs (a b : Byte) (c : Bool) :
    (add8 a b c).ovf = true ↔ a.msb = b.msb ∧ a.msb ≠ (add8 a b c).result.msb := by
  simp only [add8, bne, xor_and_signBit_eq_zero, Bool.and_eq_true, beq_iff_eq, Bool.not_eq_true', beq_eq_false_iff_ne, ne_eq]

/-- A result of the wrong sign is off by 256, so the true sum is out of range; and conversely. -/
theorem add8_ovf_iff (a b : Byte) (c : Bool) :
    (add8 a b c).ovf = true ↔ a.toInt + b.toInt + (c.toNat : Int) < -128 ∨ 127 < a.toInt + b.toInt + (c.toNat : Int) := by
  have ha := a.isLt
  have hb := b.isLt
  have hc := c.toNat_le
  have hr := add8_result_toNat a b c
  simp only [add8_ovf_iff_signs, BitVec.msb_eq_decide, decide_eq_decide, ne_eq, BitVec.toInt_eq_toNat_cond]
  omega

/-- Settles O8. -/
theorem add8MatchesIntegerArithmetic : Obligations.Add8MatchesIntegerArithmetic := by
  unfold Obligations.Add8MatchesIntegerArithmetic
  exact fun a b c => ⟨add8_result_toNat a b c, add8_carry_iff a b c, add8_ovf_iff a b c⟩

/-! ## The subtractor -/

theorem xor_ones_toNat (b : Byte) : (b ^^^ 0xFF#8).toNat = 255 - b.toNat := by
  rw [show 0xFF#8 = BitVec.allOnes 8 from rfl, BitVec.xor_allOnes, BitVec.toNat_not]

theorem xor_ones_msb (b : Byte) : (b ^^^ 0xFF#8).msb = !b.msb := by
  rw [BitVec.msb_xor]
  exact Bool.xor_true _

/-- The complement's signed value. -/
theorem xor_ones_toInt (b : Byte) : (b ^^^ 0xFF#8).toInt = -1 - b.toInt := by
  have := b.isLt
  rw [BitVec.toInt_eq_toNat_cond, BitVec.toInt_eq_toNat_cond, xor_ones_toNat]
  split <;> split <;> omega

/-- Subtracting is adding the complement (42_arithmetic.md R111). -/
theorem sub8_eq_add8 (a b : Byte) (c : Bool) : sub8 a b c = add8 a (b ^^^ 0xFF#8) c := by
  have hb := b.isLt
  have hres : (sub8 a b c).result = (add8 a (b ^^^ 0xFF#8) c).result := by
    apply BitVec.eq_of_toNat_eq
    rw [add8_result_toNat, xor_ones_toNat, sub8, BitVec.toNat_ofInt]
    omega
  have hcarry : (sub8 a b c).carry = (add8 a (b ^^^ 0xFF#8) c).carry := by
    rw [Bool.eq_iff_iff, add8_carry_iff, xor_ones_toNat, sub8, decide_eq_true_iff]
    omega
  have hovf : (sub8 a b c).ovf = (add8 a (b ^^^ 0xFF#8) c).ovf := by
    have hsign : ((a ^^^ b) &&& 0x80#8 != 0#8) = ((a ^^^ (b ^^^ 0xFF#8)) &&& 0x80#8 == 0#8) := by
      rw [bne, xor_and_signBit_eq_zero, xor_and_signBit_eq_zero, xor_ones_msb]
      cases a.msb <;> cases b.msb <;> rfl
    exact congrArg₂ (fun p r => p && (a ^^^ r) &&& 0x80#8 != 0#8) hsign hres
  exact AluOut.ext_fields hres hcarry hovf

/-- Settles O9: the claims about the integers are the adder's, of the complement of `b`. -/
theorem sub8MatchesIntegerArithmetic : Obligations.Sub8MatchesIntegerArithmetic := by
  unfold Obligations.Sub8MatchesIntegerArithmetic
  intro a b c
  have hb := b.isLt
  refine ⟨?_, ?_, ?_, sub8_eq_add8 a b c⟩ <;> rw [sub8_eq_add8]
  · rw [add8_result_toNat, xor_ones_toNat]
    omega
  · rw [add8_carry_iff, xor_ones_toNat]
    omega
  · rw [add8_ovf_iff, xor_ones_toInt]
    omega

/-- Settles O10, flag by flag. -/
theorem cmp8SetsCarryZeroNegative : Obligations.Cmp8SetsCarryZeroNegative := by
  unfold Obligations.Cmp8SetsCarryZeroNegative
  intro r m p g
  rw [getFlag_cmp8]
  cases g <;> rfl

/-! ## ADC, SBC and the compares -/

/-- Finding an operand and reading it move `PC` and the input alone. -/
theorem readFrame_of_operand {f : Form} {s t u : State} {op : Operand} {m : Byte} (hr : resolve f s = some (op, t))
    (hl : load op t = some (m, u)) : ReadFrame s u :=
  (resolve_frame hr).1.trans (load_frame hl).1

section
variable {i : Instr} {s t u : State} {op : Operand} {m : Byte}

/-- An instruction that writes an adder's outputs back takes `A` and the carry as they were before the read. -/
theorem exec_of_addResult {alu : Byte → Byte → Bool → AluOut}
    (he : effect i.mnemonic = .value fun m t => addResult (alu t.a m (getFlag .c t.p)) t)
    (hr : resolve i.form s = some (op, t)) (hl : load op t = some (m, u)) :
    ∃ r, r = alu s.a m (getFlag .c s.p) ∧
      exec i s = .next { u with a := r.result, p := setZN r.result (setFlag .v r.ovf (setFlag .c r.carry s.p)) } := by
  have hf := readFrame_of_operand hr hl
  rw [← hf.a, ← hf.p]
  exact ⟨_, rfl, exec_of_value he hr hl⟩

/-- A compare takes its register and `P` as they were before the read. -/
theorem exec_of_compare {reg : State → Byte} (he : effect i.mnemonic = .value fun m t => t.setP (cmp8 (reg t) m t.p))
    (hreg : ReadFrame s u → reg u = reg s) (hr : resolve i.form s = some (op, t)) (hl : load op t = some (m, u)) :
    exec i s = .next { u with p := cmp8 (reg s) m s.p } := by
  have hf := readFrame_of_operand hr hl
  rw [← hreg hf, ← hf.p]
  exact exec_of_value he hr hl

end

/-- Settles O35: both write an adder's outputs back. -/
theorem adcAndSbcUseTheAdder : Obligations.AdcAndSbcUseTheAdder := by
  unfold Obligations.AdcAndSbcUseTheAdder
  intro i s t u op m hr hl
  exact ⟨fun hm => exec_of_addResult (congrArg effect hm) hr hl, fun hm => exec_of_addResult (congrArg effect hm) hr hl⟩

/-- Settles O36: one compare on each of the three registers. -/
theorem comparesSetOnlyFlags : Obligations.ComparesSetOnlyFlags := by
  unfold Obligations.ComparesSetOnlyFlags
  intro i s t u op m hr hl
  exact ⟨fun hm => exec_of_compare (reg := State.a) (congrArg effect hm) ReadFrame.a hr hl,
    fun hm => exec_of_compare (reg := State.x) (congrArg effect hm) ReadFrame.x hr hl,
    fun hm => exec_of_compare (reg := State.y) (congrArg effect hm) ReadFrame.y hr hl⟩

/-! ## Steps of memory and of a register -/

/-- A step of memory writes once, whatever the region, and sets Z and N in the `P` from before the read. -/
theorem exec_of_step {i : Instr} {s t u : State} {a : Addr} {m : Byte} {g : Byte → Byte} (he : effect i.mnemonic = .step g)
    (hr : resolve i.form s = some (.addr a, t)) (hl : busRead a t = some (m, u)) :
    exec i s = .next { busWrite a (g m) u with p := setZN (g m) s.p } := by
  rw [← (readFrame_of_operand (op := .addr a) hr hl).p, ← busWrite_p a (g m) u, exec_eq_effect, he]
  exact stepOperand_next.2 ⟨.addr a, t, m, u, hr, hl, rfl⟩

/-- Settles O37: INC and DEC are steps of memory. -/
theorem incAndDecStepMemory : Obligations.IncAndDecStepMemory := by
  unfold Obligations.IncAndDecStepMemory
  intro i s t u a m hr hl
  exact ⟨fun hm => exec_of_step (g := (· + 1)) (congrArg effect hm) hr hl,
    fun hm => exec_of_step (g := (· - 1)) (congrArg effect hm) hr hl⟩

theorem byte_ofNat_toNat_add_one (v : Byte) : BitVec.ofNat 8 (v.toNat + 1) = v + 1 := by bv_omega

/-- Adding 255 is subtracting 1 (42_arithmetic.md R123, R124). -/
theorem byte_ofNat_toNat_add_255 (v : Byte) : BitVec.ofNat 8 (v.toNat + 255) = v - 1 := by bv_omega

/-- Settles O38: the four are implied, and step their register modulo 256. -/
theorem registerStepsWrapAndSetZN : Obligations.RegisterStepsWrapAndSetZN := by
  unfold Obligations.RegisterStepsWrapAndSetZN
  intro s
  simp only [byte_ofNat_toNat_add_one, byte_ofNat_toNat_add_255]
  exact ⟨exec_of_implied rfl rfl rfl, exec_of_implied rfl rfl rfl, exec_of_implied rfl rfl rfl, exec_of_implied rfl rfl rfl⟩

end Sys2Proof.Machine
end

section
/-! Logic, the bit test, shifts and rotates (spec/43_logic_shift.md R130 to R137), each one `Effect` run on its
resolved operand, with `A` and `P` as they were before the operand was read. -/

namespace Sys2Proof.Machine

section
variable {i : Instr} {s t u : State} {op : Operand}

/-! ## AND, ORA, EOR and BIT -/

/-- A logic instruction writes `A` and sets Z and N from what it wrote. -/
theorem exec_of_logic {g : Byte → Byte → Byte} {m : Byte}
    (he : effect i.mnemonic = .value fun m t => updateZN (g t.a m) (t.setA (g t.a m)))
    (hr : resolve i.form s = some (op, t)) (hl : load op t = some (m, u)) :
    exec i s = .next { u with a := g s.a m, p := setZN (g s.a m) s.p } := by
  have hf := readFrame_of_operand hr hl
  rw [← hf.a, ← hf.p]
  exact exec_of_value he hr hl

/-- BIT writes `P` alone. -/
theorem exec_of_bit {m : Byte} (hm : i.mnemonic = .bit) (hr : resolve i.form s = some (op, t))
    (hl : load op t = some (m, u)) : exec i s = .next { u with p := bitFlags s.a m s.p } := by
  have hf := readFrame_of_operand hr hl
  rw [← hf.a, ← hf.p]
  exact exec_of_value (congrArg effect hm) hr hl

/-! ## ASL, LSR, ROL and ROR -/

/-- A shift stores its result where the operand was read, and sets C, Z and N. -/
theorem exec_of_shift {g : Byte → Bool → ShiftOut} {v : Byte} (he : effect i.mnemonic = .shift g)
    (hr : resolve i.form s = some (op, t)) (hl : load op t = some (v, u)) :
    exec i s = .next { store op (g v (getFlag .c s.p)).result u with
      p := setZN (g v (getFlag .c s.p)).result (setFlag .c (g v (getFlag .c s.p)).cout s.p) } := by
  have hp : (store op (g v (getFlag .c u.p)).result u).p = u.p := store_p ..
  rw [← (readFrame_of_operand hr hl).p, exec_eq_effect, he]
  refine shiftOperand_next.2 ⟨op, t, v, u, hr, hl, ?_⟩
  simp only [updateZN, writeFlag, State.setP, hp]

end

/-- Settles O39: the three logic instructions share one form, and BIT's flags are known one by one. -/
theorem logicAndBitTest : Obligations.LogicAndBitTest := by
  unfold Obligations.LogicAndBitTest
  intro i s t u op m hr hl
  refine ⟨fun hm => exec_of_logic (g := (· &&& ·)) (congrArg effect hm) hr hl,
    fun hm => exec_of_logic (g := (· ||| ·)) (congrArg effect hm) hr hl,
    fun hm => exec_of_logic (g := (· ^^^ ·)) (congrArg effect hm) hr hl,
    fun hm => ⟨_, exec_of_bit hm hr hl, fun g => ?_⟩⟩
  rw [getFlag_bitFlags]
  cases g <;> rfl

/-- The carry as the bit ROL shifts in (43_logic_shift.md R136). -/
theorem rotateLeft_result (v : Byte) (c : Bool) : (rotateLeft v c).result = v <<< 1 ||| BitVec.ofNat 8 c.toNat := by
  cases c <;> rfl

/-- The carry as the bit ROR shifts in (43_logic_shift.md R137). -/
theorem rotateRight_result (v : Byte) (c : Bool) :
    (rotateRight v c).result = v >>> 1 ||| BitVec.ofNat 8 c.toNat <<< 7 := by
  cases c <;> rfl

/-- Settles O40: the four are shifts of one operand, and the rotates take the carry in. -/
theorem shiftsMoveOneBitThroughCarry : Obligations.ShiftsMoveOneBitThroughCarry := by
  unfold Obligations.ShiftsMoveOneBitThroughCarry
  intro i s t u op v hr hl
  exact ⟨fun hm => exec_of_shift (congrArg effect hm) hr hl,
    fun hm => exec_of_shift (congrArg effect hm) hr hl,
    fun hm => ⟨_, rotateLeft_result v _, exec_of_shift (congrArg effect hm) hr hl⟩,
    fun hm => ⟨_, rotateRight_result v _, exec_of_shift (congrArg effect hm) hr hl⟩⟩

end Sys2Proof.Machine
end

section
/-! Control flow (spec/44_control_flow.md R140 to R151): the branches and jumps by their effect on the resolved
operand, and the returns against the stack their entries left (45_stack_flags_system.md R171, R172). -/

namespace Sys2Proof.Machine

/-! ## Branches -/

/-- The displacement counts from the address after both bytes (R140). -/
theorem branchTo_advance (cond : Byte → Bool) (d : Byte) (s : State) :
    branchTo cond (.disp d) (advance 1 s) =
      s.setPc (if cond s.p then s.pc + 2 + sext16 d else s.pc + 2) := by
  have hpc : s.pc + 1 + 1 = s.pc + 2 := BitVec.add_assoc s.pc 1 1
  rw [← hpc]
  cases hc : cond s.p <;> simp [branchTo, advance, State.setPc, hc]

/-- A branch as its condition read on `P` alone; `taken` is the condition in the statement's own words. -/
theorem exec_of_branch {i : Instr} {s : State} {d : Byte} {cond : Byte → Bool} {taken : Prop} [Decidable taken]
    (he : effect i.mnemonic = .target (branchTo cond)) (hf : i.form = .relative d) (ht : cond s.p = true ↔ taken) :
    exec i s = .next { s with pc := if taken then s.pc + 2 + sext16 d else s.pc + 2 } := by
  have hr : resolve i.form s = some (.disp d, advance 1 s) := by rw [hf, resolve]
  rw [exec_of_target he hr, branchTo_advance]
  simp only [ht, State.setPc]

/-- Settles O41: four flags, each with a branch on either value. -/
theorem branchesTestOneFlag : Obligations.BranchesTestOneFlag := by
  unfold Obligations.BranchesTestOneFlag
  intro s d
  have onClear (f : Flag) : (!getFlag f s.p) = true ↔ getFlag f s.p = false := (Bool.not_eq_true' _).to_iff
  exact ⟨exec_of_branch rfl rfl (onClear .c), exec_of_branch rfl rfl Iff.rfl,
    exec_of_branch rfl rfl Iff.rfl, exec_of_branch rfl rfl (onClear .z),
    exec_of_branch rfl rfl Iff.rfl, exec_of_branch rfl rfl (onClear .n),
    exec_of_branch rfl rfl (onClear .v), exec_of_branch rfl rfl Iff.rfl⟩

/-! ## Jumps, the call and the returns -/

theorem push16_setPc (w a : Addr) (s : State) : push16 w (s.setPc a) = (push16 w s).setPc a := by
  simp only [push16, push8_eq]
  rfl

/-- The pushed address is that of the last of the three bytes (R150). -/
theorem exec_jsr (a : Addr) (s : State) : exec (.jsr a) s = .next ((push16 (s.pc + 2) s).setPc a) := by
  have hpc : (advance 3 s).pc - 1 = s.pc + 2 := by
    rw [advance_pc]
    bv_omega
  rw [exec_of_target (op := .addr a) (t := advance 3 s) rfl rfl, hpc, advance, push16_setPc]
  rfl

theorem exec_rts (s : State) :
    exec .rts s = .next { s with
      s := s.s - 1 - 1
      pc := word16 (Memory.read s.ram (stackAddr (s.s - 1 - 1)).toNat) (Memory.read s.ram (stackAddr (s.s - 1)).toNat) + 1 } :=
  exec_of_implied rfl rfl rfl

theorem exec_brk (s : State) :
    exec .brk s = .next ((writeFlag .i true (push8 (pushedStatus s.p) (push16 (s.pc + 1) (advance 1 s)))).setPc
      (word16 (Memory.read s.par.rom 0x7FFF) (Memory.read s.par.rom 0x7FFE))) :=
  exec_of_implied rfl rfl rfl

theorem exec_rti (s : State) :
    exec .rti s = .next { s with
      s := s.s - 1 - 1 - 1
      p := pulledStatus (Memory.read s.ram (stackAddr (s.s - 1)).toNat)
      pc := word16 (Memory.read s.ram (stackAddr (s.s - 1 - 1 - 1)).toNat)
        (Memory.read s.ram (stackAddr (s.s - 1 - 1)).toNat) } :=
  exec_of_implied rfl rfl rfl

/-- Settles O42: JMP and JSR have an address operand, RTS reads the two bytes below `S`. -/
theorem jumpCallAndReturn : Obligations.JumpCallAndReturn := by
  unfold Obligations.JumpCallAndReturn
  refine ⟨fun s t p a h => ?_, fun s a => ⟨?_, exec_jsr a s, ?_⟩⟩
  · exact exec_of_target (i := .jmpInd p) (g := jumpTo) rfl (resolverOfPointerModes.2 s t p a h)
  · exact exec_of_target (i := .jmpAbs a) (op := .addr a) (t := advance 3 s) (g := jumpTo) rfl rfl
  · have hsp : s.s - 1 - 1 = s.s - 2 := by bv_omega
    rw [exec_rts, stackAddr_toNat, stackAddr_toNat, hsp]

/-! ## Returns from their entries -/

/-- A stack address lies in RAM, so its byte depends on RAM alone. -/
theorem read_of_peek_stackAddr {s : State} {sp v : Byte} (h : peek s (stackAddr sp) = some v) :
    Memory.read s.ram (stackAddr sp).toNat = v := by
  simpa [peek, regionOf_stackAddr] using h

/-- The push and the pull force the same two bits, and the pull comes last (10_state.md R14). -/
theorem pulledStatus_pushedStatus (p : Byte) : pulledStatus (pushedStatus p) = pulledStatus p := by
  refine flags_ext fun f => ?_
  rw [getFlag_pulledStatus, getFlag_pulledStatus, getFlag_pushedStatus]
  cases f <;> rfl

section
variable {s r : State} (hs : Memory.wf 0x2000 s.ram = true)
include hs

/-- RTS pulls the word a stack was left with, whatever else `r` holds (R151). -/
theorem exec_rts_of_push16 {w : Addr} (hram : r.ram = (push16 w s).ram) (hsp : r.s = s.s + 1 + 1) :
    exec .rts r = .next { r with s := s.s, pc := w + 1 } := by
  have hhigh := read_of_peek_stackAddr (peek_push16_high hs w)
  have hlow := read_of_peek_stackAddr (peek_push16_low hs w)
  rw [exec_rts, hsp, BitVec.add_sub_cancel, BitVec.add_sub_cancel, hram, hhigh, hlow, word16_bytes]

/-- RTI pulls the byte on top, then the word below it, which the push of the byte left alone
(45_stack_flags_system.md R172). -/
theorem exec_rti_of_push8_push16 {w : Addr} {v : Byte} (hram : r.ram = (push8 v (push16 w s)).ram)
    (hsp : r.s = s.s + 1 + 1 + 1) :
    exec .rti r = .next { r with s := s.s, pc := w, p := pulledStatus v } := by
  have htop : Memory.read r.ram (stackAddr (s.s + 1 + 1)).toNat = v := by
    rw [hram, ← push16_s w s]
    exact read_of_peek_stackAddr (peek_push8_same (push16_wf w s hs) v)
  have below {sp b : Byte} (hne : sp ≠ s.s + 1 + 1) (h : peek (push16 w s) (stackAddr sp) = some b) :
      Memory.read r.ram (stackAddr sp).toNat = b := by
    rw [hram]
    refine read_of_peek_stackAddr ?_
    rw [peek_push8_ne v _ (by rwa [push16_s, Ne, stackAddr_inj]), h]
  have hlow := below (succ_ne_self (s.s + 1)).symm (peek_push16_low hs w)
  have hhigh := below (by bv_omega) (peek_push16_high hs w)
  rw [exec_rti, hsp, BitVec.add_sub_cancel, BitVec.add_sub_cancel, BitVec.add_sub_cancel, htop, hlow, hhigh,
    word16_bytes]

end

/-- Settles O43: RAM and `S` are those after the pushes of the entry, which determine what the return pulls. -/
theorem returnsUndoTheirEntries : Obligations.ReturnsUndoTheirEntries := by
  unfold Obligations.ReturnsUndoTheirEntries
  intro s t r a hs hram hsp
  constructor
  · intro h
    rw [exec_jsr] at h
    obtain rfl : _ = t := Host.Outcome.next.inj h
    have hpc : s.pc + 2 + 1 = s.pc + 3 := BitVec.add_assoc s.pc 2 1
    rw [← hpc]
    exact exec_rts_of_push16 hs hram (hsp.trans (push16_s _ s))
  · intro h
    rw [exec_brk] at h
    obtain rfl : _ = t := Host.Outcome.next.inj h
    have hrti := exec_rti_of_push8_push16 (s := advance 1 s) hs hram
      (hsp.trans ((push8_s _ _).trans (congrArg (· + 1) (push16_s _ _))))
    rw [pulledStatus_pushedStatus] at hrti
    exact hrti

end Sys2Proof.Machine
end

section
/-! Stack and flag instructions, the trap and its return, and NOP (spec/45_stack_flags_system.md R160 to R173): all
are implied, so each is its effect one byte on, and what a pull finds comes from the laws of the stack unit. -/

namespace Sys2Proof.Machine

/-! ## Pushes and pulls -/

theorem push8_setPc (v : Byte) (a : Addr) (s : State) : push8 v (s.setPc a) = (push8 v s).setPc a := by
  simp only [push8_eq]
  rfl

theorem exec_pha (s : State) : exec .pha s = .next (push8 s.a (advance 1 s)) :=
  exec_of_implied rfl rfl rfl

theorem exec_php (s : State) : exec .php s = .next (push8 (pushedStatus s.p) (advance 1 s)) :=
  exec_of_implied rfl rfl rfl

section
variable {s t : State} {v : Byte} (h : pull8 s = some (v, t))
include h

theorem exec_pla_of_pull8 : exec .pla s = .next ((updateZN v (t.setA v)).setPc (s.pc + 1)) := by
  cases (pull8_eq s).symm.trans h
  exact exec_of_implied rfl rfl rfl

theorem exec_plp_of_pull8 : exec .plp s = .next ((t.setP (pulledStatus v)).setPc (s.pc + 1)) := by
  cases (pull8_eq s).symm.trans h
  exact exec_of_implied rfl rfl rfl

end

/-- Settles O44: a push does not read `PC`, and a pull reads the byte below `S`, which is RAM. -/
theorem stackInstructionsPushAndPull : Obligations.StackInstructionsPushAndPull := by
  unfold Obligations.StackInstructionsPushAndPull
  intro s v hv
  have hpull : pull8 s = some (v, s.setS (s.s - 1)) := by rw [pull8_eq, stackAddr_toNat, hv]
  refine ⟨?_, ?_, exec_pla_of_pull8 hpull, exec_plp_of_pull8 hpull⟩
  · rw [exec_pha, advance, push8_setPc]
    rfl
  · rw [exec_php, advance, push8_setPc]
    rfl

/-- Settles O45: the pull finds the byte pushed and restores `S`, so of the push only RAM remains. -/
theorem pullAfterPushRoundTrip : Obligations.PullAfterPushRoundTrip := by
  unfold Obligations.PullAfterPushRoundTrip
  intro s t hs
  have hpull (v : Byte) := pull8_push8 (s := advance 1 s) hs v
  have hpc (v : Byte) : (push8 v (advance 1 s)).pc + 1 = s.pc + 2 := by
    rw [push8_pc, advance_pc]
    exact BitVec.add_assoc s.pc 1 1
  refine ⟨fun h => ⟨(push8 (pushedStatus s.p) (advance 1 s)).ram, ?_⟩, fun h => ⟨(push8 s.a (advance 1 s)).ram, ?_⟩⟩
  · cases (exec_php s).symm.trans h
    rw [exec_plp_of_pull8 (hpull _), hpc, pulledStatus_pushedStatus]
    rfl
  · cases (exec_pha s).symm.trans h
    rw [exec_pla_of_pull8 (hpull _), hpc]
    rfl

/-! ## The trap and the return from it -/

/-- Three pushes write RAM and `S` alone (60_exceptions.md R183). -/
theorem push8_push16_frame (v : Byte) (w : Addr) (s : State) :
    push8 v (push16 w s) = { s with ram := (push8 v (push16 w s)).ram, s := s.s + 3 } := by
  have hsp : (push8 v (push16 w s)).s = s.s + 3 := by
    rw [push8_s, push16_s]
    bv_omega
  apply State.ext_fields
  case h5 => exact hsp
  all_goals simp

section
variable {s : State} (hs : Memory.wf 0x2000 s.ram = true)
include hs

/-- A push as its byte lies in RAM, key by key. -/
theorem read_push8 (v : Byte) (k : Nat) :
    Memory.read (push8 v s).ram k = if k = 0x0100 + s.s.toNat then v else Memory.read s.ram k := by
  rw [push8_ram, Memory.read_write hs, stackAddr_toNat]

/-- The three stack bytes are three keys, so each is found whatever order the pushes came in. -/
theorem read_push8_push16 (v : Byte) (w : Addr) (k : Nat) :
    Memory.read (push8 v (push16 w s)).ram k =
      if k = 0x0100 + s.s.toNat then hiByte w
      else if k = 0x0100 + (s.s + 1).toNat then loByte w
      else if k = 0x0100 + (s.s + 2).toNat then v
      else Memory.read s.ram k := by
  have hsp : s.s + 1 + 1 = s.s + 2 := BitVec.add_assoc s.s 1 1
  have h10 : k = 0x0100 + (s.s + 1).toNat → k ≠ 0x0100 + s.s.toNat := by bv_omega
  have h20 : k = 0x0100 + (s.s + 2).toNat → k ≠ 0x0100 + s.s.toNat := by bv_omega
  have h21 : k = 0x0100 + (s.s + 2).toNat → k ≠ 0x0100 + (s.s + 1).toNat := by bv_omega
  rw [read_push8 (push16_wf w s hs), push16_s, hsp, push16, read_push8 (push8_wf _ s hs), push8_s, read_push8 hs,
    ite_ite_comm (h := h21), ite_ite_comm (h := h20), ite_ite_comm (h := h10)]

end

/-- Settles O47: BRK is three pushes at `pc0 + 1`, then I and the break vector. -/
theorem brkEntersTheHandler : Obligations.BrkEntersTheHandler := by
  unfold Obligations.BrkEntersTheHandler
  intro s hs
  refine ⟨_, ?_, read_push8_push16 (s := advance 1 s) hs (pushedStatus s.p) (s.pc + 1)⟩
  rw [exec_brk, push8_push16_frame]
  rfl

/-- Settles O48: RTI pulls from the three addresses below `S`. -/
theorem rtiRestoresStatusAndPc : Obligations.RtiRestoresStatusAndPc := by
  unfold Obligations.RtiRestoresStatusAndPc
  intro s
  have h2 : s.s - 1 - 1 = s.s - 2 := by bv_omega
  have h3 : s.s - 2 - 1 = s.s - 3 := by bv_omega
  rw [exec_rti, stackAddr_toNat, stackAddr_toNat, stackAddr_toNat, h2, h3]
  rfl

/-! ## NOP and the flag instructions -/

theorem exec_nop (s : State) : exec .nop s = .next (s.setPc (s.pc + 1)) :=
  exec_of_implied rfl rfl rfl

/-- Settles O25: `EA` is the halting opcode under the one policy, and the whole encoding of NOP under the other. -/
theorem nopHaltsOrAdvances : Obligations.NopHaltsOrAdvances := by
  unfold Obligations.NopHaltsOrAdvances
  intro s t hrun hb
  have hpc : t.pc = s.pc := (busRead_frame hb).2
  refine ⟨fun hpol => ⟨step_of_fetch_halt hrun (fetch_of_halting hb hpol), hpc⟩, fun hpol => ?_⟩
  have hnohalt : ¬(s.par.haltOnNop = true ∧ (0xEA#8 : Byte) = Config.haltOpcode) := fun h => by simp [hpol] at h
  have hfetch : fetch s = .instr .nop t := fetch_of_reads (n := 1) (rest := []) hb hnohalt rfl rfl rfl
  rw [step_of_fetch_instr hrun hfetch, exec_nop, hpc]
  rfl

section
variable {i : Instr} {f : Flag} {mask : Byte} (s : State)

/-- Clearing a flag keeps the bits of the mask (10_state.md R15). -/
theorem exec_of_clear (he : effect i.mnemonic = .target fun _ t => writeFlag f false t) (hf : i.form = .implied)
    (hmask : ~~~(1#8 <<< f.bit) = mask) : exec i s = .next { s with pc := s.pc + 1, p := s.p &&& mask } := by
  subst hmask
  exact exec_of_implied he hf rfl

/-- Setting a flag adds the bit of the mask (10_state.md R15). -/
theorem exec_of_set (he : effect i.mnemonic = .target fun _ t => writeFlag f true t) (hf : i.form = .implied)
    (hmask : 1#8 <<< f.bit = mask) : exec i s = .next { s with pc := s.pc + 1, p := s.p ||| mask } := by
  subst hmask
  exact exec_of_implied he hf rfl

end

/-- Settles O46: each flag instruction by the mask of its bit. -/
theorem flagInstructionsWriteOneBitAndNopNone : Obligations.FlagInstructionsWriteOneBitAndNopNone := by
  unfold Obligations.FlagInstructionsWriteOneBitAndNopNone
  intro s
  exact ⟨exec_of_clear s rfl rfl rfl, exec_of_set s rfl rfl rfl, exec_of_clear s rfl rfl rfl, exec_of_set s rfl rfl rfl,
    exec_of_clear s rfl rfl rfl, exec_of_clear s rfl rfl rfl, exec_of_set s rfl rfl rfl, exec_nop s⟩

end Sys2Proof.Machine
end

section
/-! What every step keeps holds along a run of any length; the parameters, and with them what the reset
input gives, are a use of it (spec/70_reset_and_hazards.md R201). -/

namespace Sys2Proof.Machine

/-- The induction over a run, once for every property that a step keeps. -/
theorem run_keeps {M : Host.Core} {Kept : M.State → Prop}
    (hstep : ∀ {s t : M.State}, M.step s = .next t → Kept s → Kept t) {k : Nat} {s t : M.State}
    (h : M.run k s = .next t) (hs : Kept s) : Kept t := by
  induction k generalizing s with
  | zero =>
    cases h
    exact hs
  | succ k ih =>
    cases hu : M.step s with
    | next u => exact ih (by rwa [run_succ_of_next k hu] at h) (hstep hu hs)
    | fault r => simp [run_succ_of_fault k hu] at h
    | refused r => simp [run_succ_of_refused k hu] at h

theorem run_par {k : Nat} {s t : State} (h : Host.Core.run Sys2Proof.core k s = .next t) : t.par = s.par :=
  run_keeps (M := Sys2Proof.core) (Kept := fun u : State => u.par = s.par) (fun hu hs => (step_par hu).trans hs) h rfl

/-- Settles O2: the reset input depends on the parameters alone, and a run keeps them. -/
theorem warmResetEqualsColdReset : Obligations.WarmResetEqualsColdReset := by
  unfold Obligations.WarmResetEqualsColdReset
  intro k s t h
  rw [State.warmReset, run_par h]

end Sys2Proof.Machine
end

section
/-! The flag frame (spec/10_state.md section 6): what each flag rule leaves alone, the mnemonics grouped by the rule
they follow, and from it the bits of `P` an instruction keeps. -/

namespace Sys2Proof.Machine

section
variable {f : Flag}

theorem getFlag_setZN_ne (hn : f ≠ .n) (hz : f ≠ .z) (v p : Byte) : getFlag f (setZN v p) = getFlag f p := by
  rw [getFlag_setZN, if_neg hn, if_neg hz]

theorem getFlag_cmp8_ne (hn : f ≠ .n) (hz : f ≠ .z) (hc : f ≠ .c) (r m p : Byte) : getFlag f (cmp8 r m p) = getFlag f p := by
  rw [getFlag_cmp8, if_neg hn, if_neg hz, if_neg hc]

theorem getFlag_bitFlags_ne (hn : f ≠ .n) (hz : f ≠ .z) (hv : f ≠ .v) (a m p : Byte) :
    getFlag f (bitFlags a m p) = getFlag f p := by
  rw [getFlag_bitFlags, if_neg hv, if_neg hn, if_neg hz]

theorem getFlag_addResult_ne (hn : f ≠ .n) (hz : f ≠ .z) (hc : f ≠ .c) (hv : f ≠ .v) (r : AluOut) (s : State) :
    getFlag f (addResult r s).p = getFlag f s.p :=
  calc getFlag f (addResult r s).p
    _ = getFlag f (setFlag .v r.ovf (setFlag .c r.carry s.p)) := getFlag_setZN_ne hn hz ..
    _ = getFlag f s.p := by rw [getFlag_setFlag_ne hv, getFlag_setFlag_ne hc]

end

/-- PLP and RTI write all of `P` (10_state.md R14). -/
theorem plp_rti_mem_flagWriters (f : Flag) : Mnemonic.plp ∈ flagWriters f ∧ Mnemonic.rti ∈ flagWriters f := by
  cases f <;> decide

/-- The mnemonics by the flag rule they follow; those of the last line write no flag. -/
theorem effect_keeps_flag {m : Mnemonic} {f : Flag} (op : Operand) (hm : m ∉ flagWriters f) :
    (effect m).Keeps (fun s => getFlag f s.p) op := by
  have hne {g : Flag} (hg : m ∈ flagWriters g) : f ≠ g := fun h => hm (h ▸ hg)
  cases m
  case plp => exact absurd (plp_rti_mem_flagWriters f).1 hm
  case rti => exact absurd (plp_rti_mem_flagWriters f).2 hm
  case clc | sec | cli | sei | cld | sed | clv => exact fun u => getFlag_setFlag_ne (hne (by decide)) _ u.p
  case brk =>
    intro u
    have hpush : (push8 (pushedStatus u.p) (push16 u.pc u)).p = u.p := (push8_p ..).trans (push16_p ..)
    exact (getFlag_setFlag_ne (hne (by decide)) true _).trans (congrArg (getFlag f) hpush)
  case adc | sbc =>
    exact fun _ u => getFlag_addResult_ne (hne (by decide)) (hne (by decide)) (hne (by decide)) (hne (by decide)) _ u
  case cmp | cpx | cpy => exact fun v u => getFlag_cmp8_ne (hne (by decide)) (hne (by decide)) (hne (by decide)) _ v u.p
  case bit => exact fun v u => getFlag_bitFlags_ne (hne (by decide)) (hne (by decide)) (hne (by decide)) u.a v u.p
  case asl | lsr | rol | ror =>
    intro v c u
    have hcarry : getFlag f (setFlag .c c (store op v u).p) = getFlag f u.p := by
      rw [getFlag_setFlag_ne (hne (by decide)), store_p]
    exact (getFlag_setZN_ne (hne (by decide)) (hne (by decide)) v _).trans hcarry
  case inc | dec =>
    intro v u
    exact (getFlag_setZN_ne (hne (by decide)) (hne (by decide)) v _).trans (congrArg (getFlag f) (store_p ..))
  case lda | ldx | ldy | and | ora | eor => exact fun v u => getFlag_setZN_ne (hne (by decide)) (hne (by decide)) _ u.p
  case tax | tay | txa | tya | tsx | pla | inx | iny | dex | dey =>
    exact fun u => getFlag_setZN_ne (hne (by decide)) (hne (by decide)) _ u.p
  all_goals simp [effect, Effect.Keeps, Effect.Within]

/-- Settles O51: the bus reads keep `P`, and what the mnemonic does keeps the flag. -/
theorem flagsAreWrittenOnlyByTheirWriters : Obligations.FlagsAreWrittenOnlyByTheirWriters := by
  unfold Obligations.FlagsAreWrittenOnlyByTheirWriters
  intro i s t f h hm
  exact exec_keeps (π := fun s => getFlag f s.p) (fun hr => congrArg (getFlag f) hr.p)
    (fun op _ _ => effect_keeps_flag op hm) h

end Sys2Proof.Machine
end
